-- ==== Sys2Proof/Word.lean ====
section
/-! DEFINITION. The data every other file speaks of: a byte, the 4-byte chunk that is the unit of the
wire (R6 `CHUNK`), and the 8-byte frame (R60, R63). Plain data and its plainest views only. -/

namespace Sys2Proof

/-- "A *byte* is an unsigned integer 0 to 255" (00_scope.md section 4). -/
abbrev Byte := BitVec 8

/-- Four consecutive bytes, lowest offset first: the unit gated by one readiness check (R9, R100). -/
structure Chunk where
  b0 : Byte
  b1 : Byte
  b2 : Byte
  b3 : Byte
  deriving DecidableEq, Repr, Inhabited

/-- An 8-byte frame, one field per offset, with the names of format `CMD8` (R60). In format `ACK8`
(R63) `opcode` is the acknowledgement opcode and `arg0`, `arg1`, `arg2` are `r0`, `r1`, `r2`. -/
structure Frame where
  sync0 : Byte
  sync1 : Byte
  sync2 : Byte
  opcode : Byte
  arg0 : Byte
  arg1 : Byte
  arg2 : Byte
  checksum : Byte
  deriving DecidableEq, Repr, Inhabited

/-- The three argument bytes of a command frame (R60 offsets 4 to 6). -/
structure Args where
  arg0 : Byte
  arg1 : Byte
  arg2 : Byte
  deriving DecidableEq, Repr, Inhabited

/-- The bytes of a chunk in offset order (R45). -/
def Chunk.bytes (c : Chunk) : List Byte := [c.b0, c.b1, c.b2, c.b3]

/-- The bytes of a frame, offset 0 first (R45). -/
def Frame.bytes (f : Frame) : List Byte :=
  [f.sync0, f.sync1, f.sync2, f.opcode, f.arg0, f.arg1, f.arg2, f.checksum]

end Sys2Proof
end

