-- ==== Sys2Proof/Config.lean ====
section
/-! DEFINITION. What one implementation fixes (R6, R7, R8, R18) and the free values (R55: the MODULE's
answers are draws). The open parameters of R7 are the fields of `Config`; the machine carries one
`Config` in its state and never writes it, so a claim about every state is a claim about every
configuration. -/

namespace Sys2Proof

/-- `ARGMAP` for one command (R7, R64): which of arg0, arg1, arg2 carries which operand. The
operands of a command are the three entries of its R64 row (an unused one is 0); `pxyz` puts the
row's first entry in argument `x`, the second in `y`, the third in `z`. R64's own choice is `p012`
for every command. -/
inductive ArgPerm where
  | p012 | p021 | p102 | p120 | p201 | p210
  deriving DecidableEq, Repr, Inhabited

/-- `BIST_RESULT_OFF`: "in {4, 5, 6}" (R7). -/
inductive BistOff where
  | off4 | off5 | off6
  deriving DecidableEq, Repr, Inhabited

/-- The seven commands the source names (R66). -/
inductive Command where
  | readSwVersion | readFlashPage | writeProgramArea | writeFlashPage | writeFlashByte | runBist
  | readProgramArea
  deriving DecidableEq, Repr, Inhabited

/-- `ARGMAP`, a placement per command (R7, R64). -/
structure ArgMap where
  readSwVersion : ArgPerm
  readFlashPage : ArgPerm
  writeProgramArea : ArgPerm
  writeFlashPage : ArgPerm
  writeFlashByte : ArgPerm
  runBist : ArgPerm
  readProgramArea : ArgPerm
  deriving DecidableEq, Repr, Inhabited

/-- The open parameters of R7, read-only (R18). -/
structure Config where
  opcReadSwVersion : Byte
  opcReadFlashPage : Byte
  opcWriteProgramArea : Byte
  opcWriteFlashPage : Byte
  opcWriteFlashByte : Byte
  opcRunBist : Byte
  opcReadProgramArea : Byte
  ackOk : Byte
  ackVersion : Byte
  ackBist : Byte
  configPage : Byte
  infoPage : Byte
  bistResultOff : BistOff
  argMap : ArgMap
  infoLotOff : Byte
  infoModidOff : Byte
  infoLockOff : Byte
  lockSentinel : Byte
  deriving DecidableEq, Repr, Inhabited

namespace Config

/-- `SYNC0` (R6). -/
def sync0 : Byte := 0xA5
/-- `SYNC1` (R6). -/
def sync1 : Byte := 0x5A
/-- `SYNC2` (R6). -/
def sync2 : Byte := 0xA5
/-- `CKSUM_FIRST` (R6, 90_conflicts.md C1). -/
def cksumFirst : Nat := 2
/-- `CKSUM_LAST` (R6). -/
def cksumLast : Nat := 6
/-- `CHUNK` (R6). -/
def chunk : Nat := 4
/-- `PAGE_SIZE` (R6). -/
def pageSize : Nat := 256
/-- The capacity of the payload buffer: 255 pages of 256 bytes (R22). -/
def dbufCapacity : Nat := 65280
/-- `MAXATT_DEFAULT` (R6, R17). -/
def maxattDefault : BitVec 16 := 500
/-- `CFG_PAGECOUNT_OFF` (R6). -/
def cfgPagecountOff : Nat := 0
/-- `CFG_PROTECT_OFF` (R6). -/
def cfgProtectOff : Nat := 1
/-- `PROTECT_OFF_VALUE` (R6). -/
def protectOffValue : Byte := 0xFF
/-- `PROTECT_ON_VALUE` (R6). -/
def protectOnValue : Byte := 0x00

/-- The opcode parameter of a command (R66). -/
def opcode (c : Config) : Command → Byte
  | .readSwVersion => c.opcReadSwVersion
  | .readFlashPage => c.opcReadFlashPage
  | .writeProgramArea => c.opcWriteProgramArea
  | .writeFlashPage => c.opcWriteFlashPage
  | .writeFlashByte => c.opcWriteFlashByte
  | .runBist => c.opcRunBist
  | .readProgramArea => c.opcReadProgramArea

/-- `ACK_OF(command)` (R66). -/
def ackOf (c : Config) : Command → Byte
  | .readSwVersion => c.ackVersion
  | .readFlashPage => c.ackOk
  | .writeProgramArea => c.ackOk
  | .writeFlashPage => c.ackOk
  | .writeFlashByte => c.ackOk
  | .runBist => c.ackBist
  | .readProgramArea => c.ackOk

/-- The `ARGMAP` row of a command (R64). -/
def perm (c : Config) : Command → ArgPerm
  | .readSwVersion => c.argMap.readSwVersion
  | .readFlashPage => c.argMap.readFlashPage
  | .writeProgramArea => c.argMap.writeProgramArea
  | .writeFlashPage => c.argMap.writeFlashPage
  | .writeFlashByte => c.argMap.writeFlashByte
  | .runBist => c.argMap.runBist
  | .readProgramArea => c.argMap.readProgramArea

/-- The ten opcode parameters in the order the decoder tries them. -/
def opcodes (c : Config) : List Byte :=
  [c.opcReadSwVersion, c.opcReadFlashPage, c.opcWriteProgramArea, c.opcWriteFlashPage,
   c.opcWriteFlashByte, c.opcRunBist, c.opcReadProgramArea, c.ackOk, c.ackVersion, c.ackBist]

/-- The ten opcodes are pairwise distinct, so that every one of the ten frames decodes to its own
row. (R7 requires it of the seven command opcodes only; the reference configuration has the three
acknowledgement opcodes equal.) -/
abbrev allDistinct (c : Config) : Prop := c.opcodes.Nodup

/-- "The seven command opcodes must be pairwise distinct for the wire to be decodable" (R7). -/
abbrev commandsDistinct (c : Config) : Prop := (c.opcodes.take 7).Nodup

/-- "`CONFIG_PAGE < INFO_PAGE`" (R7, R48: the info page's index is "distinct, larger than config"). -/
abbrev pagesOrdered (c : Config) : Prop := c.configPage.toNat < c.infoPage.toNat

/-- What R7 asks of the open parameters. (`BIST_RESULT_OFF` "in {4, 5, 6}" is its type.) -/
abbrev lawful (c : Config) : Prop := c.pagesOrdered ∧ c.commandsDistinct

/-- R64's own assignment of operands to argument bytes. -/
def argMapR64 : ArgMap := ⟨.p012, .p012, .p012, .p012, .p012, .p012, .p012⟩

/-- The reference configuration `REF` (R8), "not a claim about the real module": no definition of
the machine uses it. The info page layout, to which R8 assigns nothing, is 0 here. -/
def ref : Config where
  opcReadSwVersion := 0x01
  opcReadFlashPage := 0x02
  opcWriteProgramArea := 0x03
  opcWriteFlashPage := 0x04
  opcWriteFlashByte := 0x05
  opcRunBist := 0x06
  opcReadProgramArea := 0x07
  ackOk := 0x08
  ackVersion := 0x08
  ackBist := 0x08
  configPage := 0x20
  infoPage := 0x21
  bistResultOff := .off4
  argMap := argMapR64
  infoLotOff := 0
  infoModidOff := 0
  infoLockOff := 0
  lockSentinel := 0

/-- Open parameters that meet R7's constraints. (`REF` only shows that there are some.) -/
structure Lawful where
  /-- The parameters. -/
  params : Config := ref
  /-- They meet R7. -/
  isLawful : params.lawful := by decide
  deriving Inhabited

/-- The configuration of the machine that `State.reset` describes. No body: the source gives no
value (R7), so nothing can be proved of one but R7's constraints. DESIGN CHOICE, log entry 1. -/
opaque device : Lawful

/-- The `n`-th readiness sample that no script in the state answers: a draw (R9, R55, U5). -/
opaque freeReady : Nat → Bool

/-- The `n`-th received chunk that no script in the state answers: a draw (R9, R55, U6). -/
opaque freeRx : Nat → Chunk

/-- What a byte of `DBUF` holds that nothing has written since it became unspecified (R22, R25, U11):
any value, at the draw count and the offset. -/
opaque freeDbuf : Nat → Nat → Byte

end Config
end Sys2Proof
end

