-- ==== Sys2Proof/Syntax.lean ====
section
/-! DEFINITION. The instructions: one constructor for each of the 25 rows of spec/opcode_table.json:
the seven command frames (format `CMD8`), the three acknowledgement frames (format `ACK8`) and the
fifteen operations of the HOST port (R61, R62). Operands that R175 ranges over are naturals, so that
a request outside the range can be written down and refused. -/

namespace Sys2Proof

inductive Instr where
  /-- read-SW-version (R114): the command frame, as given on the wire. -/
  | cmdReadSwVersion (arg0 arg1 arg2 : Byte)
  /-- read-flash-page (R115). -/
  | cmdReadFlashPage (arg0 arg1 arg2 : Byte)
  /-- write-program-area (R118). -/
  | cmdWriteProgramArea (arg0 arg1 arg2 : Byte)
  /-- write-flash-page (R116). -/
  | cmdWriteFlashPage (arg0 arg1 arg2 : Byte)
  /-- write-flash-byte (R117). -/
  | cmdWriteFlashByte (arg0 arg1 arg2 : Byte)
  /-- run-BIST (R120). -/
  | cmdRunBist (arg0 arg1 arg2 : Byte)
  /-- read-program-area (R119). -/
  | cmdReadProgramArea (arg0 arg1 arg2 : Byte)
  /-- ack-ok (R63, R83). -/
  | ackOk (r0 r1 r2 : Byte)
  /-- ack-version (R63, R83). -/
  | ackVersion (r0 r1 r2 : Byte)
  /-- ack-bist (R63, R83). -/
  | ackBist (r0 r1 r2 : Byte)
  /-- `BuildCommand(opcode, arg0, arg1, arg2)` (R81). -/
  | buildCommand (opcode arg0 arg1 arg2 : Byte)
  /-- `ValidateResponse(frame, expectedAckOpcode)` (R83). -/
  | validateResponse (frame : Frame) (expectedAck : Byte)
  /-- `IsReady()` (R91). -/
  | isReady
  /-- `WaitReady(maxAttempts)` (R92). -/
  | waitReady (maxAttempts : Nat)
  /-- `Send(buffer)`, the buffer in `DBUF` (R101). -/
  | send
  /-- `Receive(size)` (R103). -/
  | receive (size : Nat)
  /-- `ReadSwVersion()` (R114). -/
  | readSwVersion
  /-- `ReadPage(pageIndex, pageCount)` (R115). -/
  | readPage (pageIndex pageCount : Nat)
  /-- `WritePage(pageIndex, data)`, the data in `DBUF` (R116). -/
  | writePage (pageIndex : Nat)
  /-- `WriteByte(address, value)` (R117). -/
  | writeByte (address value : Nat)
  /-- `WriteProgramArea(pageCount, programBytes)`, the bytes in `DBUF` (R118). -/
  | writeProgramArea (pageCount : Nat)
  /-- `ReadProgramArea(pageCount)` (R119). -/
  | readProgramArea (pageCount : Nat)
  /-- `RunSelfTest()` (R120). -/
  | runSelfTest
  /-- `SetCodeProtect()` (R123). -/
  | setCodeProtect
  /-- `VerifyCodeProtect()` (R124). -/
  | verifyCodeProtect
  deriving DecidableEq, Repr

/-! The pseudo-operations of R69, each an exact expansion. -/

/-- `WaitReady()` is `WaitReady(500)`. -/
def Instr.waitReadyDefault : Instr := .waitReady 500

/-- `ReadInfoPage()` is `ReadPage(INFO_PAGE, 1)`. -/
def Instr.readInfoPage (c : Config) : Instr := .readPage c.infoPage.toNat 1

/-- `ReadConfigPage()` is `ReadPage(CONFIG_PAGE, 1)`. -/
def Instr.readConfigPage (c : Config) : Instr := .readPage c.configPage.toNat 1

/-- `WriteConfigPage(D)` is `WritePage(CONFIG_PAGE, D)`. -/
def Instr.writeConfigPage (c : Config) : Instr := .writePage c.configPage.toNat

end Sys2Proof
end

