-- ==== Sys2Proof/WellFormed.lean ====
section
/-! DEFINITION. Well-formed instructions: every operand fits its field of the request latch `REQ`
(R13): page indices, page counts and values 8 bits, addresses and attempt bounds 16 bits, sizes 17
bits. Only a well-formed instruction has an encoding. -/

namespace Sys2Proof

/-- Every operand fits the width R13 gives its field. -/
def Instr.wf : Instr → Bool
  | .waitReady maxAttempts => decide (maxAttempts < 2 ^ 16)
  | .receive size => decide (size < 2 ^ 17)
  | .readPage pageIndex pageCount => decide (pageIndex < 2 ^ 8) && decide (pageCount < 2 ^ 8)
  | .writePage pageIndex => decide (pageIndex < 2 ^ 8)
  | .writeByte address value => decide (address < 2 ^ 16) && decide (value < 2 ^ 8)
  | .writeProgramArea pageCount => decide (pageCount < 2 ^ 8)
  | .readProgramArea pageCount => decide (pageCount < 2 ^ 8)
  | .cmdReadSwVersion _ _ _ | .cmdReadFlashPage _ _ _ | .cmdWriteProgramArea _ _ _
  | .cmdWriteFlashPage _ _ _ | .cmdWriteFlashByte _ _ _ | .cmdRunBist _ _ _
  | .cmdReadProgramArea _ _ _ => true
  | .ackOk _ _ _ | .ackVersion _ _ _ | .ackBist _ _ _ => true
  | .buildCommand _ _ _ _ | .validateResponse _ _ => true
  | .isReady | .send | .readSwVersion | .runSelfTest | .setCodeProtect | .verifyCodeProtect => true

end Sys2Proof
end

