-- ==== Sys2Proof/Decode.lean ====
section
/-! DEFINITION. The frame codec's bit-level functions (R82, R81), the decoder (total on any bytes,
rejecting by name) and the encoder.

Two things are encoded in this hardware (30_encoding.md): the ten frames of R60 and R63 are 8 bytes,
offset 0 first; an operation of the HOST port is its 4-bit selector (R61) in the low half of one
byte, followed by its operands in the order of R62. The layout of those operand bytes is the
model's own (the source gives none): one byte for an 8-bit operand, high byte first for a wider
one (R45 splits a flat address "big-end first"), 17 bits in three bytes. DESIGN CHOICE, log entry 2. -/

namespace Sys2Proof

/-- `Checksum(F)` (R82): the exact sum of the bytes at offsets `CKSUM_FIRST` to `CKSUM_LAST`, its low
8 bits. -/
def checksumOf (f : Frame) : Byte :=
  BitVec.ofNat 8 ((((f.bytes.drop Config.cksumFirst).take
    (Config.cksumLast + 1 - Config.cksumFirst)).map BitVec.toNat).sum)

/-- The frame `BuildCommand` builds (R81). -/
def buildFrame (opcode : Byte) (a : Args) : Frame :=
  let f : Frame := ⟨Config.sync0, Config.sync1, Config.sync2, opcode, a.arg0, a.arg1, a.arg2, 0⟩
  { f with checksum := checksumOf f }

/-- The three sync bytes are `A5 5A A5` (R60, R63). -/
def syncOk (f : Frame) : Bool :=
  f.sync0 == Config.sync0 && f.sync1 == Config.sync1 && f.sync2 == Config.sync2

/-- A frame is well formed: "checksum and sync-byte invariants hold for every frame exchanged in
either direction" (R80). -/
def frameOk (f : Frame) : Bool := syncOk f && f.checksum == checksumOf f

/-! Byte order (R45): operands wider than a byte, high byte first. -/

/-- The two bytes of a 16-bit operand. -/
def bytes16 (n : Nat) : List Byte := [BitVec.ofNat 8 (n / 256), BitVec.ofNat 8 n]

/-- The three bytes of a 17-bit operand. -/
def bytes24 (n : Nat) : List Byte :=
  [BitVec.ofNat 8 (n / 65536), BitVec.ofNat 8 (n / 256), BitVec.ofNat 8 n]

/-- The number of two bytes, high byte first. -/
def nat16 (hi lo : Byte) : Nat := hi.toNat * 256 + lo.toNat

/-- The number of three bytes, high byte first. -/
def nat24 (top hi lo : Byte) : Nat := top.toNat * 65536 + hi.toNat * 256 + lo.toNat

/-- Why a request is not an instruction. -/
inductive DecodeError where
  /-- No byte at all. -/
  | empty
  /-- `OPSEL = 15` (R61, R67 d). -/
  | reservedSelector
  /-- The first byte is neither a 4-bit selector nor the first sync byte. -/
  | badSelectorByte
  /-- Too few or too many bytes for the selector or the frame. -/
  | wrongLength
  /-- A size with a bit above the 17 of R13. -/
  | sizeTooWide
  /-- A frame whose sync bytes differ (R67 b). -/
  | badSync
  /-- A frame whose last byte is not its checksum (R67 b). -/
  | badChecksum
  /-- A frame whose opcode is none of the ten parameters (R67 e). -/
  | unknownOpcode
  deriving DecidableEq, Repr

/-- What the decoder answers. -/
inductive Decoded where
  | ok (i : Instr)
  | bad (e : DecodeError)
  deriving DecidableEq, Repr

/-- The instruction of a decoded request, if it is one. -/
def Decoded.instr? : Decoded → Option Instr
  | .ok i => some i
  | .bad _ => none

/-- The row of a well-formed frame, by its opcode (R66). Where the configuration gives two rows the
same opcode the earlier row of the table wins. DESIGN CHOICE, log entry 3. -/
def decodeOpcode (c : Config) (f : Frame) : Decoded :=
  if f.opcode = c.opcReadSwVersion then .ok (.cmdReadSwVersion f.arg0 f.arg1 f.arg2)
  else if f.opcode = c.opcReadFlashPage then .ok (.cmdReadFlashPage f.arg0 f.arg1 f.arg2)
  else if f.opcode = c.opcWriteProgramArea then .ok (.cmdWriteProgramArea f.arg0 f.arg1 f.arg2)
  else if f.opcode = c.opcWriteFlashPage then .ok (.cmdWriteFlashPage f.arg0 f.arg1 f.arg2)
  else if f.opcode = c.opcWriteFlashByte then .ok (.cmdWriteFlashByte f.arg0 f.arg1 f.arg2)
  else if f.opcode = c.opcRunBist then .ok (.cmdRunBist f.arg0 f.arg1 f.arg2)
  else if f.opcode = c.opcReadProgramArea then .ok (.cmdReadProgramArea f.arg0 f.arg1 f.arg2)
  else if f.opcode = c.ackOk then .ok (.ackOk f.arg0 f.arg1 f.arg2)
  else if f.opcode = c.ackVersion then .ok (.ackVersion f.arg0 f.arg1 f.arg2)
  else if f.opcode = c.ackBist then .ok (.ackBist f.arg0 f.arg1 f.arg2)
  else .bad .unknownOpcode

/-- A frame as an instruction: the three classes of R67 (b), then its opcode. A frame whose sync bytes
and checksum are both wrong is named by its sync bytes (R83 orders the tests of a received frame,
not of a request). DESIGN CHOICE, log entry 2. -/
def decodeFrame (c : Config) (f : Frame) : Decoded :=
  if syncOk f = false then .bad .badSync
  else if f.checksum ≠ checksumOf f then .bad .badChecksum
  else decodeOpcode c f

/-- `frame`, `expectedAck` (R62). -/
def decodeValidate : List Byte → Decoded
  | [f0, f1, f2, f3, f4, f5, f6, f7, e] =>
    .ok (.validateResponse ⟨f0, f1, f2, f3, f4, f5, f6, f7⟩ e)
  | _ => .bad .wrongLength

/-- Four byte operands (R62). -/
def decode4 (k : Byte → Byte → Byte → Byte → Instr) : List Byte → Decoded
  | [a, b, c, d] => .ok (k a b c d)
  | _ => .bad .wrongLength

/-- An operation without operands (R62). -/
def decode0 (i : Instr) : List Byte → Decoded
  | [] => .ok i
  | _ => .bad .wrongLength

/-- One byte operand (R62). -/
def decode1 (k : Nat → Instr) : List Byte → Decoded
  | [a] => .ok (k a.toNat)
  | _ => .bad .wrongLength

/-- Two byte operands (R62). -/
def decode2 (k : Nat → Nat → Instr) : List Byte → Decoded
  | [a, b] => .ok (k a.toNat b.toNat)
  | _ => .bad .wrongLength

/-- A 16-bit operand (R62). -/
def decodeHalf (k : Nat → Instr) : List Byte → Decoded
  | [hi, lo] => .ok (k (nat16 hi lo))
  | _ => .bad .wrongLength

/-- A 16-bit and a byte operand (R62). -/
def decodeHalfByte (k : Nat → Nat → Instr) : List Byte → Decoded
  | [hi, lo, v] => .ok (k (nat16 hi lo) v.toNat)
  | _ => .bad .wrongLength

/-- A 17-bit operand (R62). -/
def decodeSize (k : Nat → Instr) : List Byte → Decoded
  | [top, hi, lo] => if top.toNat < 2 then .ok (k (nat24 top hi lo)) else .bad .sizeTooWide
  | _ => .bad .wrongLength

/-- The operation of a selector (R61) with its operand bytes. -/
def decodeOp (sel : Nat) (bs : List Byte) : Decoded :=
  match sel with
  | 0 => decode4 .buildCommand bs
  | 1 => decodeValidate bs
  | 2 => decode0 .isReady bs
  | 3 => decodeHalf .waitReady bs
  | 4 => decode0 .send bs
  | 5 => decodeSize .receive bs
  | 6 => decode0 .readSwVersion bs
  | 7 => decode2 .readPage bs
  | 8 => decode1 .writePage bs
  | 9 => decodeHalfByte .writeByte bs
  | 10 => decode1 .writeProgramArea bs
  | 11 => decode1 .readProgramArea bs
  | 12 => decode0 .runSelfTest bs
  | 13 => decode0 .setCodeProtect bs
  | 14 => decode0 .verifyCodeProtect bs
  | 15 => .bad .reservedSelector
  | _ => .bad .badSelectorByte

/-- The 8 bytes of a frame request. -/
def decodeFrameBytes (c : Config) : List Byte → Decoded
  | [f0, f1, f2, f3, f4, f5, f6, f7] => decodeFrame c ⟨f0, f1, f2, f3, f4, f5, f6, f7⟩
  | _ => .bad .wrongLength

/-- The decoder: any bytes, an instruction or a named reason. -/
def decode (c : Config) : List Byte → Decoded
  | [] => .bad .empty
  | b :: bs => if b = Config.sync0 then decodeFrameBytes c (b :: bs) else decodeOp b.toNat bs

/-- `OPSEL` of an operation (R61); a frame has none. -/
def Instr.opsel? : Instr → Option (BitVec 4)
  | .buildCommand _ _ _ _ => some 0
  | .validateResponse _ _ => some 1
  | .isReady => some 2
  | .waitReady _ => some 3
  | .send => some 4
  | .receive _ => some 5
  | .readSwVersion => some 6
  | .readPage _ _ => some 7
  | .writePage _ => some 8
  | .writeByte _ _ => some 9
  | .writeProgramArea _ => some 10
  | .readProgramArea _ => some 11
  | .runSelfTest => some 12
  | .setCodeProtect => some 13
  | .verifyCodeProtect => some 14
  | .cmdReadSwVersion _ _ _ | .cmdReadFlashPage _ _ _ | .cmdWriteProgramArea _ _ _
  | .cmdWriteFlashPage _ _ _ | .cmdWriteFlashByte _ _ _ | .cmdRunBist _ _ _
  | .cmdReadProgramArea _ _ _ => none
  | .ackOk _ _ _ | .ackVersion _ _ _ | .ackBist _ _ _ => none

/-- The encoder: the bytes of a well-formed instruction, from R60, R63, R61 and R62. -/
def encode (c : Config) : Instr → List Byte
  | .cmdReadSwVersion a0 a1 a2 => (buildFrame c.opcReadSwVersion ⟨a0, a1, a2⟩).bytes
  | .cmdReadFlashPage a0 a1 a2 => (buildFrame c.opcReadFlashPage ⟨a0, a1, a2⟩).bytes
  | .cmdWriteProgramArea a0 a1 a2 => (buildFrame c.opcWriteProgramArea ⟨a0, a1, a2⟩).bytes
  | .cmdWriteFlashPage a0 a1 a2 => (buildFrame c.opcWriteFlashPage ⟨a0, a1, a2⟩).bytes
  | .cmdWriteFlashByte a0 a1 a2 => (buildFrame c.opcWriteFlashByte ⟨a0, a1, a2⟩).bytes
  | .cmdRunBist a0 a1 a2 => (buildFrame c.opcRunBist ⟨a0, a1, a2⟩).bytes
  | .cmdReadProgramArea a0 a1 a2 => (buildFrame c.opcReadProgramArea ⟨a0, a1, a2⟩).bytes
  | .ackOk r0 r1 r2 => (buildFrame c.ackOk ⟨r0, r1, r2⟩).bytes
  | .ackVersion r0 r1 r2 => (buildFrame c.ackVersion ⟨r0, r1, r2⟩).bytes
  | .ackBist r0 r1 r2 => (buildFrame c.ackBist ⟨r0, r1, r2⟩).bytes
  | .buildCommand o a0 a1 a2 => [0, o, a0, a1, a2]
  | .validateResponse f e => 1 :: (f.bytes ++ [e])
  | .isReady => [2]
  | .waitReady n => 3 :: bytes16 n
  | .send => [4]
  | .receive n => 5 :: bytes24 n
  | .readSwVersion => [6]
  | .readPage p n => [7, BitVec.ofNat 8 p, BitVec.ofNat 8 n]
  | .writePage p => [8, BitVec.ofNat 8 p]
  | .writeByte a v => 9 :: (bytes16 a ++ [BitVec.ofNat 8 v])
  | .writeProgramArea n => [10, BitVec.ofNat 8 n]
  | .readProgramArea n => [11, BitVec.ofNat 8 n]
  | .runSelfTest => [12]
  | .setCodeProtect => [13]
  | .verifyCodeProtect => [14]

/-! The host's table words. spec/opcode_table.json prints a frame as its 64-bit frame word, byte 0 in
bits 63:56 (00_scope.md section 4), and an operation as its 4-bit selector. -/

/-- How many operand bytes follow a selector byte. -/
def operandBytes (sel : Nat) : Nat :=
  match sel with
  | 0 => 4
  | 1 => 9
  | 3 => 2
  | 5 => 3
  | 7 => 2
  | 8 => 1
  | 9 => 3
  | 10 => 1
  | 11 => 1
  | _ => 0

/-- The frame of a frame word `W(F)`. -/
def frameOfWord (w : Nat) : Frame :=
  ⟨BitVec.ofNat 8 (w / 2 ^ 56), BitVec.ofNat 8 (w / 2 ^ 48), BitVec.ofNat 8 (w / 2 ^ 40),
   BitVec.ofNat 8 (w / 2 ^ 32), BitVec.ofNat 8 (w / 2 ^ 24), BitVec.ofNat 8 (w / 2 ^ 16),
   BitVec.ofNat 8 (w / 2 ^ 8), BitVec.ofNat 8 w⟩

/-- The first `n` bytes of a number, least significant byte first. -/
def bytesOfNat : Nat → Nat → List Byte
  | 0, _ => []
  | n + 1, w => BitVec.ofNat 8 w :: bytesOfNat n (w / 256)

/-- The frame a table word stands for. The table's checksum bits are a field whose value the other
bytes fix (R82); a word that leaves them 0 has it filled in. Log entry 7. -/
def tableFrame (w : Nat) : Frame :=
  if (frameOfWord w).checksum = 0 then
    { frameOfWord w with checksum := checksumOf (frameOfWord w) }
  else frameOfWord w

/-- The request bytes of a table word: a 64-bit word is a frame word; any other is a selector byte
with its operand bytes after it, the bits above `nbits` zero. -/
def requestOfWord (nbits w : Nat) : List Byte :=
  if nbits = 64 then (tableFrame w).bytes
  else bytesOfNat (1 + operandBytes (w % 256)) (w % 2 ^ nbits)

/-- The instruction the decoder reads from a table word, under the machine's own configuration. -/
def decodeTableWord (nbits w : Nat) : Option Instr :=
  (decode Config.device.params (requestOfWord nbits w)).instr?

end Sys2Proof
end

