-- ==== Sys2Proof/Machine/State.lean ====
section
/-! DEFINITION. The state of the frame engine as plain data (R10 lists it: "exactly"), with beside it
what the model itself needs: the HOST port (its pending actions and what they answered), the HOST's
two pins, and the MODULE's answers. -/

namespace Sys2Proof.Machine

/-- `SEQ.op`: "the running operation (`IDLE` when none)" (R14), the fifteen of R61. -/
inductive OpName where
  | idle | buildCommand | validateResponse | isReady | waitReady | send | receive | readSwVersion
  | readPage | writePage | writeByte | writeProgramArea | readProgramArea | runSelfTest
  | setCodeProtect | verifyCodeProtect
  deriving DecidableEq, Repr, Inhabited

/-- `SEQ.phase` (R14). -/
inductive Phase where
  | idle | check | build | txCmd | rxAck1 | valAck1 | txData | rxData | rxAck2 | valAck2 | post
  deriving DecidableEq, Repr, Inhabited

/-- `SEQ = (op, phase, off)`, the program counter's analogue (R14). -/
structure SeqPos where
  op : OpName
  phase : Phase
  off : BitVec 17
  deriving DecidableEq, Repr, Inhabited

/-- The six engine errors (R161). -/
inductive EngineError where
  | checksumMismatch | unexpectedResponse | timeout | programSizeMismatch | selfTestFailure
  | codeProtectVerifyFailure
  deriving DecidableEq, Repr, Inhabited

/-- `STATUS`: "one of the seven values of rule R161" (R15). -/
inductive Status where
  | ok
  | error (e : EngineError)
  deriving DecidableEq, Repr, Inhabited

/-- The errors the HOST raises itself (R162); they have no `STATUS` code. -/
inductive HostError where
  | wrongBackupSize | emptyChipNoBackup | wrongImageSize
  | configMismatch (off : Nat) | programMismatch (off : Nat)
  | moduleNotDetected
  deriving DecidableEq, Repr, Inhabited

/-- A wire event (R9), an entry of `HIST` (R21). -/
inductive Event where
  | poll (ready : Bool)
  | tx (c : Chunk)
  | rx (c : Chunk)
  deriving DecidableEq, Repr, Inhabited

/-- What the request latch holds: the operation and its operands, at the widths of R13. -/
inductive Request where
  | buildCommand (opcode arg0 arg1 arg2 : BitVec 8)
  | validateResponse (frame : Frame) (expectedAck : BitVec 8)
  | isReady
  | waitReady (maxAttempts : BitVec 16)
  | send
  | receive (size : BitVec 17)
  | readSwVersion
  | readPage (pageIndex pageCount : BitVec 8)
  | writePage (pageIndex : BitVec 8)
  | writeByte (address : BitVec 16) (value : BitVec 8)
  | writeProgramArea (pageCount : BitVec 8)
  | readProgramArea (pageCount : BitVec 8)
  | runSelfTest
  | setCodeProtect
  | verifyCodeProtect
  deriving DecidableEq, Repr, Inhabited

/-- The value an operation that ends `OK` hands back (R62). A returned buffer is
`DBUF[0 .. DLEN - 1]`. -/
inductive OpResult where
  | nothing
  | ready (b : Bool)
  | frame (f : Frame)
  | version (v0 v1 v2 : Byte)
  | buffer
  deriving DecidableEq, Repr, Inhabited

/-- The named ports a HOST may read (R129, R156). -/
inductive Port where
  | status | err | busy | dvalid | maxatt | pollcnt | xcnt | dlen | txf | rxf | hist
  | dbuf
  | dbufByte (off : Nat)
  deriving DecidableEq, Repr, Inhabited

/-- What a HOST read answered. -/
inductive PortValue where
  | nothing
  | status (code : BitVec 4)
  | flag (b : Bool)
  | half (w : BitVec 16)
  | count (w : BitVec 17)
  | frame (f : Frame)
  | bytes (bs : List Byte)
  | events (es : List Event)
  deriving DecidableEq, Repr, Inhabited

/-- One line of a program (R68): an operation and, where it is written with one, its buffer
(`Send(buffer)`, `WritePage(pageIndex, data)`, `WriteProgramArea(pageCount, programBytes)`). A line
without takes `DBUF` and `DLEN` as they stand. -/
structure ProgramLine where
  request : List Byte
  buffer : Option (List Byte)
  deriving DecidableEq, Repr, Inhabited

/-- What the HOST does at the engine's edge, one action at a time (R3, R129, R140). -/
inductive HostAct where
  /-- Start the one operation these bytes encode (R61, R62). -/
  | start (request : List Byte)
  /-- Run a program, "a list of operations executed in order" (R68): the first that ends with an error
  ends it. -/
  | program (lines : List ProgramLine)
  /-- Step 4 of the connect sequence (R196): run this readiness check, and go on to steps 5 and 6 or
  fail with `ModuleNotDetected`. -/
  | confirmReady (readinessCheck : List Byte)
  /-- `OPEN <- b` (R23). -/
  | setOpen (b : Bool)
  /-- `MAXATT <- v` (R17). -/
  | writeMaxatt (v : Nat)
  /-- Fill `DBUF` from offset `off` on (R22). -/
  | writeDbuf (off : Nat) (data : List Byte)
  /-- `DLEN <- n` (R22). -/
  | writeDlen (n : Nat)
  /-- Read a named port (R129). -/
  | read (p : Port)
  /-- Engine reset, "an event, not an operation" (R190). -/
  | engineReset
  /-- Assert or de-assert program-enable (R196, R197). -/
  | setPmode (asserted : Bool)
  /-- Drive the MODULE's reset line (R196, R197). -/
  | setResetLine (high : Bool)
  deriving DecidableEq, Repr, Inhabited

/-- `DBUF`'s storage, byte-addressed (R40 d): the offsets that hold a known byte, strictly rising. An
unlisted offset has no known value: its contents are unspecified (R22). -/
abbrev Memory := List Host.Cell

/-- Strictly rising addresses, each above `lo`. -/
def Memory.risingFrom : Nat → Memory → Bool
  | _, [] => true
  | lo, (a, _) :: m => decide (lo ≤ a) && Memory.risingFrom (a + 1) m

/-- The canonical form: strictly rising offsets inside the buffer's capacity. (An unlisted offset
reads as no value, so no entry can equal it.) -/
def Memory.wf (m : Memory) : Bool :=
  Memory.risingFrom 0 m && m.all fun e => decide (e.1 < Config.dbufCapacity)

/-- The machine. -/
structure State where
  /-- The configuration constants (R18): never written. -/
  cfg : Config
  /-- `TXF` (R11); `none` is R26's "holds no value". -/
  txf : Option Frame
  /-- `RXF` (R12); `none` is R26's "holds no value". -/
  rxf : Option Frame
  /-- `REQ` (R13); `none` is R25's "no request". -/
  req : Option Request
  /-- `SEQ` (R14). -/
  seq : SeqPos
  /-- `STATUS` (R15). -/
  status : Status
  /-- `ERR`, sticky (R16). -/
  err : Bool
  /-- `BUSY` (R16). -/
  busy : Bool
  /-- `OPEN` (R23). -/
  isOpen : Bool
  /-- `DVALID` (R22). -/
  dvalid : Bool
  /-- `MAXATT` (R17). -/
  maxatt : BitVec 16
  /-- `POLLCNT` (R19). -/
  pollcnt : BitVec 16
  /-- `XCNT` (R20). -/
  xcnt : BitVec 17
  /-- `DBUF` (R22). -/
  dbuf : Memory
  /-- `DLEN` (R22), 0 to 65280. -/
  dlen : BitVec 17
  /-- `HIST`, oldest first (R21). -/
  hist : List Event
  /-- The value the last completed operation returned (R62). -/
  result : OpResult
  /-- The value the HOST's last read answered (R129). -/
  portValue : PortValue
  /-- The error the HOST reported at its last readiness check, if it did (R162, R196). The HOST's. -/
  hostError : Option HostError
  /-- The HOST's pending actions, next first (R140). The model's own. -/
  hostQ : List HostAct
  /-- PMODE asserted: the HOST's pin, which "the engine does not see" (R156). -/
  pmode : Bool
  /-- The MODULE's reset line is high: the HOST's pin (R156, R198). -/
  resetLine : Bool
  /-- The MODULE's coming answers to `SampleReady`, next first (R55). The model's own. -/
  readyIn : List Bool
  /-- The chunks the link will deliver, next first (R55). The model's own. -/
  linkIn : List Chunk
  /-- How many free values have been drawn (R55). The model's own. -/
  draws : Nat
  deriving DecidableEq, Repr

/-- Why the machine stops with a fault. -/
inductive Fault where
  /-- A HOST access to a byte of `DBUF` outside `0 .. DLEN - 1` (R40 d: "byte-addressed 0 to
  `DLEN - 1`"). Raised by a HOST read of one byte. Safe. -/
  | noSuchDbufByte (off : Nat)
  deriving DecidableEq, Repr

/-- Why a request has no meaning: the closed list of R175, and beside it an undecodable request. A
refusal changes no state and appends no event. -/
inductive Refusal where
  /-- An instruction without a meaning in this model. Raised by no instruction. Safe. -/
  | notModelled (mnemonic : String)
  /-- Send, Receive with a length that is no multiple of 4 (R101, R103). Safe. -/
  | lengthNotChunkMultiple
  /-- WritePage with `DLEN` other than 256 (R116). Safe. -/
  | pageDataNot256
  /-- An operand outside the range of R175. Raised by every operation with a natural operand and by
  the HOST's register writes. Safe. -/
  | operandOutOfRange
  /-- A wire operation while `OPEN = 0` (R23). Safe. -/
  | transportClosed
  /-- A wire operation while `ERR = 1` (R172). Safe. -/
  | errorLatched
  /-- A request or a register write while `BUSY = 1` (R16). Safe. -/
  | busy
  /-- `OPSEL = 15` (R67). Safe. -/
  | reservedSelector
  /-- A HOST read of `TXF` or `RXF` while nothing has written it (R26). Safe. -/
  | unwrittenRegister
  /-- A HOST read of `DBUF` while `DVALID = 0` (R22). Safe. -/
  | bufferInvalid
  /-- A request that encodes no instruction; raised by the HOST port. Safe. -/
  | undecodable (e : DecodeError)
  deriving DecidableEq, Repr

/-- What one step, or one instruction, answers. -/
abbrev Answer := Host.Outcome State Fault Refusal

/-- `(IDLE, IDLE, 0)` (R14). -/
def SeqPos.idle : SeqPos := ⟨.idle, .idle, 0⟩

/-- The machine right after engine reset (R25, R190). `DBUF` is unspecified (no byte known), the HOST
has asked nothing, its pins rest (R198), and the MODULE's answers are all free. -/
def State.reset : State where
  cfg := Config.device.params
  txf := none
  rxf := none
  req := none
  seq := SeqPos.idle
  status := .ok
  err := false
  busy := false
  isOpen := false
  dvalid := false
  maxatt := Config.maxattDefault
  pollcnt := 0
  xcnt := 0
  dbuf := []
  dlen := 0
  hist := []
  result := .nothing
  portValue := .nothing
  hostError := none
  hostQ := []
  pmode := false
  resetLine := false
  readyIn := []
  linkIn := []
  draws := 0

end Sys2Proof.Machine
end

