-- ==== Sys2Proof/Machine/Ops.lean ====
section
/-! DEFINITION. The named operations over registers, the payload buffer and the wire: the three wire
events of R9, how an operation runs and ends (completion, and raising an error: R170), and engine
reset (R190). -/

namespace Sys2Proof.Machine

/-! ### The payload buffer's storage (R22, R40 d) -/

/-- The known byte at an offset, if there is one. -/
def Memory.read? : Memory → Nat → Option Byte
  | [], _ => none
  | (a, b) :: m, x => if x = a then some b else Memory.read? m x

/-- Write one byte, keeping the canonical form. -/
def Memory.write : Memory → Nat → Byte → Memory
  | [], x, v => [(x, v)]
  | (a, b) :: m, x, v =>
    if x < a then (x, v) :: (a, b) :: m
    else if x = a then (x, v) :: m
    else (a, b) :: Memory.write m x v

/-- Write bytes at rising offsets from `x` on. -/
def Memory.writeBytes : Memory → Nat → List Byte → Memory
  | m, _, [] => m
  | m, x, v :: vs => Memory.writeBytes (m.write x v) (x + 1) vs

/-- The byte at an offset of `DBUF`: the known byte, else any value (R22 "unspecified", U11). -/
def readDbuf (s : State) (off : Nat) : Byte :=
  (s.dbuf.read? off).getD (Config.freeDbuf s.draws off)

/-- `DBUF[0 .. n - 1]`. -/
def dbufBytes (s : State) (n : Nat) : List Byte := (List.range n).map (readDbuf s)

/-! ### Register updates -/

/-- `DBUF[0 .. L - 1]` and `DLEN` hold the `L` bytes of a data operand (R62). -/
def fillBuffer (data : List Byte) (s : State) : State :=
  { s with dbuf := s.dbuf.writeBytes 0 data, dlen := BitVec.ofNat 17 data.length }

/-- `SEQ.phase <- p` (R14). -/
def setPhase (p : Phase) (s : State) : State := { s with seq := { s.seq with phase := p } }

/-- A Send or Receive starts: `XCNT <- 0`, `off <- 0` (R101, R103, R20). -/
def startTransfer (s : State) : State := { s with xcnt := 0, seq := { s.seq with off := 0 } }

/-- One chunk has moved: `off <- off + 4`, `XCNT <- XCNT + 4` (R101, R103). -/
def advance (s : State) : State :=
  { s with xcnt := s.xcnt + 4, seq := { s.seq with off := s.seq.off + 4 } }

/-- Append one event to `HIST` (R21). -/
def record (e : Event) (s : State) : State := { s with hist := s.hist ++ [e] }

/-! ### The wire events (R9), each atomic and appended to `HIST` -/

/-- The MODULE's next answer to a readiness sample (R55): the script's, else a draw. -/
def nextReady (s : State) : Bool × State :=
  match s.readyIn with
  | b :: bs => (b, { s with readyIn := bs })
  | [] => (Config.freeReady s.draws, { s with draws := s.draws + 1 })

/-- The next chunk the link delivers (R55): the script's, else a draw; always 4 bytes (D20). -/
def nextChunk (s : State) : Chunk × State :=
  match s.linkIn with
  | c :: cs => (c, { s with linkIn := cs })
  | [] => (Config.freeRx s.draws, { s with draws := s.draws + 1 })

/-- `SampleReady()`: event `Poll(b)`. -/
def sampleReady (s : State) : Bool × State :=
  ((nextReady s).1, record (.poll (nextReady s).1) (nextReady s).2)

/-- `TxChunk(B)`: event `Tx(B)`. -/
def txChunk (c : Chunk) (s : State) : State := record (.tx c) s

/-- `RxChunk()`: event `Rx(B)`. -/
def rxChunk (s : State) : Chunk × State :=
  ((nextChunk s).1, record (.rx (nextChunk s).1) (nextChunk s).2)

/-! ### How an operation runs -/

/-- What a part of an operation's pseudocode comes to: it goes on with a value, or `raise E`. -/
inductive Run (α : Type) where
  | ok (a : α) (s : State)
  | raised (e : EngineError) (s : State)

/-- One part after another: an operation ends at the first that raises (R110, R169). -/
def Run.bind {α β : Type} (r : Run α) (k : α → State → Run β) : Run β :=
  match r with
  | .ok a s => k a s
  | .raised e s => .raised e s

/-- Change the state an error leaves. -/
def Run.onRaise {α : Type} (r : Run α) (f : State → State) : Run α :=
  match r with
  | .ok a s => .ok a s
  | .raised e s => .raised e (f s)

/-- The HOST starts an operation: `REQ` latches it (R13), `BUSY <- 1` and `SEQ` leaves `IDLE` (R14,
R16). -/
def beginOp (op : OpName) (r : Request) (s : State) : State :=
  { s with req := some r, seq := ⟨op, .check, 0⟩, busy := true }

/-- A frame exchange starts without a request at the HOST port: `REQ` keeps what it holds. DESIGN
CHOICE, log entry 4. -/
def beginFrame (op : OpName) (s : State) : State :=
  { s with seq := ⟨op, .check, 0⟩, busy := true }

/-- A read operation ends with an error before its payload is complete: `DVALID = 0` and the contents
of `DBUF` are unspecified (R22, R170, D21), that is, no byte of it is known. -/
def abandonRead (s : State) : State := { s with dvalid := false, dbuf := [] }

/-- TAKING AN EXCEPTION: `raise E` (R170): `STATUS <- E`, `ERR <- 1`, `SEQ <- (IDLE, IDLE, 0)`,
`BUSY <- 0`, everything else kept. No value is returned. -/
def raiseError (e : EngineError) (s : State) : State :=
  { s with status := .error e, err := true, seq := SeqPos.idle, busy := false, result := .nothing }

/-- `return OK(value)`: `STATUS <- OK` (R15), `SEQ` returns to `(IDLE, IDLE, 0)` (R14). -/
def complete (r : OpResult) (s : State) : State :=
  { s with status := .ok, seq := SeqPos.idle, busy := false, result := r }

/-- The end of an operation that performs, or would perform, wire events. -/
def finish (r : Run OpResult) : State :=
  match r with
  | .ok v s => complete v s
  | .raised e s => raiseError e s

/-- Engine reset (R190, R191), "the only thing that clears `ERR`": every engine register to R25's
value. The configuration constants, the MODULE, the pins and the HOST's own plans are untouched. -/
def engineReset (s : State) : State :=
  { State.reset with
    cfg := s.cfg
    portValue := s.portValue
    hostQ := s.hostQ
    pmode := s.pmode
    resetLine := s.resetLine
    hostError := s.hostError
    readyIn := s.readyIn
    linkIn := s.linkIn
    draws := s.draws }

end Sys2Proof.Machine
end

