-- ==== Sys2Proof/Machine/Operands.lean ====
section
/-! DEFINITION. Operands: their range test (R175), the page-address multiplexer (R111), and the
placement of operands in a frame's argument bytes (`ARGMAP`, R64). -/

namespace Sys2Proof.Machine

/-- An operand at its register's width, if it fits (R175 `OperandOutOfRange`). -/
def narrow (w n : Nat) : Option (BitVec w) := if n < 2 ^ w then some (BitVec.ofNat w n) else none

/-! ### The page-address multiplexer (R111) -/

/-- The four sources the multiplexer chooses from. -/
inductive PamSource where
  | explicit (page : Byte)
  | config
  | info
  | flat (address : BitVec 16)
  deriving DecidableEq, Repr

/-- `PAM`: the (page, offset) pair. -/
def pam (c : Config) : PamSource → Byte × Byte
  | .explicit p => (p, 0)
  | .config => (c.configPage, 0)
  | .info => (c.infoPage, 0)
  | .flat a =>
    (BitVec.ofNat 8 (a.toNat / Config.pageSize), BitVec.ofNat 8 (a.toNat % Config.pageSize))

/-- `FlatOf(page, off) = page * 256 + off`. -/
def flatOf (page off : Byte) : BitVec 16 :=
  BitVec.ofNat 16 (page.toNat * Config.pageSize + off.toNat)

/-- `PayloadLen(n) = n * 256`, exact on naturals. -/
def payloadLen (n : Byte) : Nat := n.toNat * Config.pageSize

/-! ### `ARGMAP` (R64) -/

/-- Place the three entries of a command's R64 row in the argument bytes. -/
def place : ArgPerm → Byte → Byte → Byte → Args
  | .p012, x, y, z => ⟨x, y, z⟩
  | .p021, x, y, z => ⟨x, z, y⟩
  | .p102, x, y, z => ⟨y, x, z⟩
  | .p120, x, y, z => ⟨z, x, y⟩
  | .p201, x, y, z => ⟨y, z, x⟩
  | .p210, x, y, z => ⟨z, y, x⟩

/-- The first entry of the R64 row, read back from the argument bytes. -/
def firstOperand : ArgPerm → Args → Byte
  | .p012, a | .p021, a => a.arg0
  | .p102, a | .p120, a => a.arg1
  | .p201, a | .p210, a => a.arg2

/-- The second entry of the R64 row, read back from the argument bytes. -/
def secondOperand : ArgPerm → Args → Byte
  | .p102, a | .p201, a => a.arg0
  | .p012, a | .p210, a => a.arg1
  | .p021, a | .p120, a => a.arg2

/-- The third entry of the R64 row, read back from the argument bytes. -/
def thirdOperand : ArgPerm → Args → Byte
  | .p120, a | .p210, a => a.arg0
  | .p021, a | .p201, a => a.arg1
  | .p012, a | .p102, a => a.arg2

/-- The argument bytes of a command with the operands of its R64 row. -/
def argsOf (c : Config) (cmd : Command) (x y z : Byte) : Args := place (c.perm cmd) x y z

/-- The designated result byte of a run-BIST acknowledgement (R120, R63). -/
def bistByte : BistOff → Frame → Byte
  | .off4, f => f.arg0
  | .off5, f => f.arg1
  | .off6, f => f.arg2

/-! ### Chunks (R45, R100) -/

/-- A buffer as 4-byte chunks, lowest offset first; callers give a multiple of 4 bytes. -/
def chunksOf : List Byte → List Chunk
  | a :: b :: c :: d :: rest => ⟨a, b, c, d⟩ :: chunksOf rest
  | _ => []

/-- The two chunks of a frame. -/
def frameChunks (f : Frame) : List Chunk :=
  [⟨f.sync0, f.sync1, f.sync2, f.opcode⟩, ⟨f.arg0, f.arg1, f.arg2, f.checksum⟩]

/-- The frame of two received chunks. -/
def frameOfChunks (c d : Chunk) : Frame := ⟨c.b0, c.b1, c.b2, c.b3, d.b0, d.b1, d.b2, d.b3⟩

end Sys2Proof.Machine
end

