-- ==== Sys2Proof/Machine/Flags.lean ====
section
/-! DEFINITION. The tests that decide an outcome: admission by the flags `BUSY`, `ERR`, `OPEN` (R16,
R23, R172), the judgement of a received frame (R83), and the codes of `STATUS` (R161). -/

namespace Sys2Proof.Machine

/-- Whether an operation that performs wire events is admitted. Where several tests fail, the order
`BUSY`, `ERR`, `OPEN` only chooses the refusal's name. DESIGN CHOICE, log entry 5. -/
def admission (s : State) : Option Refusal :=
  if s.busy then some .busy
  else if s.err then some .errorLatched
  else if s.isOpen = false then some .transportClosed
  else none

/-- Run an answer only if the operation is admitted. -/
def admitted (s : State) (k : Answer) : Answer :=
  match admission s with
  | some r => .refused r
  | none => k

/-- Whether a pure operation or a register write is admitted: "a request while `BUSY = 1` is refused"
(R16); `OPEN` and `ERR` do not matter (R80). -/
def unlessBusy (s : State) (k : Answer) : Answer := if s.busy then .refused .busy else k

/-- `ValidateResponse`'s judgement (R83): checksum first, then the sync bytes, then the opcode. -/
def validate (f : Frame) (expectedAck : Byte) : Option EngineError :=
  if f.checksum ≠ checksumOf f then some .checksumMismatch
  else if syncOk f = false then some .unexpectedResponse
  else if f.opcode ≠ expectedAck then some .unexpectedResponse
  else none

/-- The `STATUS` code (R161). -/
def statusCode : Status → BitVec 4
  | .ok => 0
  | .error .checksumMismatch => 1
  | .error .unexpectedResponse => 2
  | .error .timeout => 3
  | .error .programSizeMismatch => 4
  | .error .selfTestFailure => 5
  | .error .codeProtectVerifyFailure => 6

end Sys2Proof.Machine
end

