-- ==== Sys2Proof/Machine/Codec.lean ====
section
/-! DEFINITION. The Frame Codec (40_frame_codec.md): BuildCommand and ValidateResponse, the two pure
operations, "admitted whatever `OPEN` and `ERR` are" (R80). They write neither `BUSY` nor `SEQ`
(R27). -/

namespace Sys2Proof.Machine

/-- `TXF[0..7] <- ` the command frame, all 8 bytes at once (R81, R11). -/
def buildTxf (opcode : Byte) (a : Args) (s : State) : State :=
  { s with txf := some (buildFrame opcode a) }

/-- `BuildCommand(opcode, arg0, arg1, arg2)` (R81): total, "no error". -/
def execBuildCommand (opcode arg0 arg1 arg2 : Byte) (s : State) : Answer :=
  unlessBusy s (.next
    { buildTxf opcode ⟨arg0, arg1, arg2⟩ s with
      req := some (.buildCommand opcode arg0 arg1 arg2)
      status := .ok
      result := .frame (buildFrame opcode ⟨arg0, arg1, arg2⟩) })

/-- `ValidateResponse(frame, expectedAckOpcode)` called by the HOST (R83): it writes `STATUS` only and
"does not set `ERR` (it is pure)". -/
def execValidateResponse (frame : Frame) (expectedAck : Byte) (s : State) : Answer :=
  unlessBusy s (.next
    { s with
      req := some (.validateResponse frame expectedAck)
      status := match validate frame expectedAck with
        | none => .ok
        | some e => .error e
      result := .nothing })

end Sys2Proof.Machine
end

