-- ==== Sys2Proof/Machine/Transport.lean ====
section
/-! DEFINITION. The Readiness Gate (41_readiness_gate.md) and the Chunked Transport
(42_chunked_transport.md): the shared loops, and the meanings of IsReady, WaitReady, Send and
Receive. -/

namespace Sys2Proof.Machine

/-! ### Shared operations -/

/-- WaitReady's poll loop with `n` attempts left (R92): `n` is the bound less `POLLCNT`. -/
def waitLoop : Nat → State → Run Unit
  | 0, s => .raised .timeout s
  | n + 1, s =>
    if (sampleReady s).1 then .ok () (sampleReady s).2
    else waitLoop n { (sampleReady s).2 with pollcnt := (sampleReady s).2.pollcnt + 1 }

/-- `WaitReady(maxAttempts)` (R92). -/
def waitReady (maxAttempts : BitVec 16) (s : State) : Run Unit :=
  waitLoop maxAttempts.toNat { s with pollcnt := 0 }

/-- `Gate()` (R100): the immediate check, then WaitReady with the bound `MAXATT`. -/
def gate (s : State) : Run Unit :=
  if (sampleReady s).1 then .ok () (sampleReady s).2
  else waitReady (sampleReady s).2.maxatt (sampleReady s).2

/-- Send's chunk loop (R101). -/
def sendLoop : List Chunk → State → Run Unit
  | [], s => .ok () s
  | c :: cs, s => (gate s).bind fun _ s1 => sendLoop cs (advance (txChunk c s1))

/-- Send these chunks from offset 0 on (R101). -/
def sendChunks (cs : List Chunk) (s : State) : Run Unit := sendLoop cs (startTransfer s)

/-- Receive one gated chunk (R103). -/
def recvChunk (s : State) : Run Chunk :=
  (gate s).bind fun _ s1 => .ok (rxChunk s1).1 (advance (rxChunk s1).2)

/-- Receive's chunk loop with `DBUF` as its target (R103): the chunk goes to `DBUF[off .. off+3]`. -/
def recvLoop : Nat → State → Run Unit
  | 0, s => .ok () s
  | n + 1, s =>
    (recvChunk s).bind fun c s1 =>
      recvLoop n { s1 with dbuf := s1.dbuf.writeBytes s.seq.off.toNat c.bytes }

/-- `Receive(size)` into `DBUF` (R103): `DVALID` is 0 until the last byte is in. -/
def recvPayload (size : Nat) (s : State) : Run Unit :=
  (recvLoop (size / Config.chunk) { startTransfer s with dvalid := false }).bind fun _ s1 =>
    .ok () { s1 with dlen := BitVec.ofNat 17 size, dvalid := true }

/-- `RXF[0..7] <- Receive(8)`: the 8 bytes are staged and written to `RXF` all at once after the
second chunk; `DBUF`, `DLEN`, `DVALID` are not touched (R103, R112, 90_conflicts.md C9). -/
def recvFrame (s : State) : Run Frame :=
  (recvChunk (startTransfer s)).bind fun c s1 =>
    (recvChunk s1).bind fun d s2 =>
      .ok (frameOfChunks c d) { s2 with rxf := some (frameOfChunks c d) }

/-! ### Meanings -/

/-- `IsReady()` (R91). It polls in the phase `CHECK`: DESIGN CHOICE, log entry 12. -/
def execIsReady (s : State) : Answer :=
  admitted s (.next (complete (.ready (sampleReady (beginOp .isReady .isReady s)).1)
    (sampleReady (beginOp .isReady .isReady s)).2))

/-- `WaitReady(maxAttempts)` (R92): its own operand is the bound, not `MAXATT` (R17). It polls in the
phase `CHECK`: DESIGN CHOICE, log entry 12. -/
def execWaitReady (maxAttempts : Nat) (s : State) : Answer :=
  admitted s (match narrow 16 maxAttempts with
    | some n => .next (finish ((waitReady n (beginOp .waitReady (.waitReady n) s)).bind
        fun _ s1 => .ok .nothing s1))
    | none => .refused .operandOutOfRange)

/-- `Send(buffer)` (R101), the buffer `DBUF[0 .. DLEN - 1]`. -/
def execSend (s : State) : Answer :=
  admitted s (
    if Config.dbufCapacity < s.dlen.toNat then .refused .operandOutOfRange
    else if s.dlen.toNat % Config.chunk ≠ 0 then .refused .lengthNotChunkMultiple
    else .next (finish ((sendChunks (chunksOf (dbufBytes s s.dlen.toNat))
      (setPhase .txData (beginOp .send .send s))).bind fun _ s1 => .ok .nothing s1)))

/-- `Receive(size)` (R103). -/
def execReceive (size : Nat) (s : State) : Answer :=
  admitted s (
    if Config.dbufCapacity < size then .refused .operandOutOfRange
    else if size % Config.chunk ≠ 0 then .refused .lengthNotChunkMultiple
    else .next (finish (((recvPayload size
      (setPhase .rxData (beginOp .receive (.receive (BitVec.ofNat 17 size)) s))).onRaise
        abandonRead).bind fun _ s1 => .ok .buffer s1)))

end Sys2Proof.Machine
end

