-- ==== Sys2Proof/Machine/Exchange.lean ====
section
/-! DEFINITION. The machinery common to Flash Page Access (43_flash_page_access.md section 1): one
acknowledgement, `Transact` (R112), `SecondAck` (R113), and the exchange of each command (R66,
R114 to R120) over the argument bytes of its frame. -/

namespace Sys2Proof.Machine

/-- Receive an acknowledgement into `RXF`, then judge it (R112, R113): `RXF` is written "before
validation" (R12). `rx` and `val` name the two phases. -/
def recvAck (rx val : Phase) (expectedAck : Byte) (s : State) : Run Frame :=
  (recvFrame (setPhase rx s)).bind fun f s1 =>
    match validate f expectedAck with
    | none => .ok f (setPhase val s1)
    | some e => .raised e (setPhase val s1)

/-- `Transact(op, a0, a1, a2, expAck)` (R112) for a named command: its opcode and its `ACK_OF` (R66). -/
def transact (cmd : Command) (a : Args) (s : State) : Run Frame :=
  (sendChunks (frameChunks (buildFrame (s.cfg.opcode cmd) a))
    (setPhase .txCmd (buildTxf (s.cfg.opcode cmd) a (setPhase .build s)))).bind fun _ s1 =>
      recvAck .rxAck1 .valAck1 (s1.cfg.ackOf cmd) s1

/-- `SecondAck(ACK_OK)` (R113). -/
def secondAck (s : State) : Run Frame := recvAck .rxAck2 .valAck2 s.cfg.ackOk s

/-- A command with nothing after its first acknowledgement (R66). -/
def plainExchange (cmd : Command) (a : Args) (s : State) : Run Frame := transact cmd a s

/-- A command after whose acknowledgement `size` bytes are received into `DBUF` (R66, R115, R119). An
error before the last byte abandons the read (R170). -/
def readExchange (cmd : Command) (a : Args) (size : Nat) (s : State) : Run Unit :=
  ((transact cmd a s).bind fun _ s1 => recvPayload size (setPhase .rxData s1)).onRaise abandonRead

/-- A command after whose acknowledgement `size` bytes of `DBUF` are sent and a second
acknowledgement is awaited (R66, R116, R118). -/
def writeExchange (cmd : Command) (a : Args) (size : Nat) (s : State) : Run Frame :=
  (transact cmd a s).bind fun _ s1 =>
    (sendChunks (chunksOf (dbufBytes s1 size)) (setPhase .txData s1)).bind fun _ s2 => secondAck s2

/-! ### The seven exchanges, over the argument bytes of the command frame -/

/-- R114: the version is the acknowledgement's three payload bytes. -/
def runReadSwVersion (a : Args) (s : State) : Run OpResult :=
  (plainExchange .readSwVersion a s).bind fun f s1 => .ok (.version f.arg0 f.arg1 f.arg2) s1

/-- R115: `n` pages into `DBUF`. -/
def runReadPage (a : Args) (n : Byte) (s : State) : Run OpResult :=
  (readExchange .readFlashPage a (payloadLen n) s).bind fun _ s1 => .ok .buffer s1

/-- R116, its length test passed: the 256 bytes of `DBUF` to one page. -/
def runWritePage (a : Args) (s : State) : Run OpResult :=
  (writeExchange .writeFlashPage a Config.pageSize s).bind fun _ s1 => .ok .nothing s1

/-- R117: one byte, carried in the command frame; one acknowledgement (90_conflicts.md C4). -/
def runWriteByte (a : Args) (s : State) : Run OpResult :=
  (plainExchange .writeFlashByte a s).bind fun _ s1 => .ok .nothing s1

/-- R118: the size test "before any wire event", then `n` pages from `DBUF` to the program area. -/
def runWriteProgramArea (a : Args) (n : Byte) (s : State) : Run OpResult :=
  if s.dlen.toNat ≠ payloadLen n then .raised .programSizeMismatch s
  else (writeExchange .writeProgramArea a (payloadLen n) s).bind fun _ s1 => .ok .nothing s1

/-- R119: `n` pages of the program area into `DBUF`. -/
def runReadProgramArea (a : Args) (n : Byte) (s : State) : Run OpResult :=
  (readExchange .readProgramArea a (payloadLen n) s).bind fun _ s1 => .ok .buffer s1

/-- The value test of R120 on the designated byte of a validated acknowledgement, in the phase `POST`:
DESIGN CHOICE, log entry 12. -/
def testBist (f : Frame) (s : State) : Run OpResult :=
  if bistByte s.cfg.bistResultOff f ≠ 0 then .raised .selfTestFailure (setPhase .post s)
  else .ok .nothing (setPhase .post s)

/-- R120: the result byte is examined only after the frame validated. -/
def runSelfTestExchange (a : Args) (s : State) : Run OpResult :=
  (plainExchange .runBist a s).bind fun f s1 => testBist f s1

end Sys2Proof.Machine
end

