-- ==== Sys2Proof/Machine/FlashPage.lean ====
section
/-! DEFINITION. Flash Page Access (43_flash_page_access.md section 2): the nine operations that
sequence command, acknowledgement, payload and second acknowledgement. "All of them require
`OPEN = 1` and `ERR = 0`, else they are refused" (R110). -/

namespace Sys2Proof.Machine

/-- `ReadSwVersion()` (R114). -/
def execReadSwVersion (s : State) : Answer :=
  admitted s (.next (finish (runReadSwVersion (argsOf s.cfg .readSwVersion 0 0 0)
    (beginOp .readSwVersion .readSwVersion s))))

/-- `ReadPage(pageIndex, pageCount)` (R115). -/
def execReadPage (pageIndex pageCount : Nat) (s : State) : Answer :=
  admitted s (match narrow 8 pageIndex, narrow 8 pageCount with
    | some p, some n => .next (finish (runReadPage
        (argsOf s.cfg .readFlashPage (pam s.cfg (.explicit p)).1 n 0) n
        (beginOp .readPage (.readPage p n) s)))
    | _, _ => .refused .operandOutOfRange)

/-- `WritePage(pageIndex, data)` (R116). -/
def execWritePage (pageIndex : Nat) (s : State) : Answer :=
  admitted s (match narrow 8 pageIndex with
    | some p =>
      if s.dlen.toNat ≠ Config.pageSize then .refused .pageDataNot256
      else .next (finish (runWritePage
        (argsOf s.cfg .writeFlashPage (pam s.cfg (.explicit p)).1 0 0)
        (beginOp .writePage (.writePage p) s)))
    | none => .refused .operandOutOfRange)

/-- `WriteByte(address, value)` (R117). -/
def execWriteByte (address value : Nat) (s : State) : Answer :=
  admitted s (match narrow 16 address, narrow 8 value with
    | some a, some v => .next (finish (runWriteByte
        (argsOf s.cfg .writeFlashByte (pam s.cfg (.flat a)).1 (pam s.cfg (.flat a)).2 v)
        (beginOp .writeByte (.writeByte a v) s)))
    | _, _ => .refused .operandOutOfRange)

/-- `WriteProgramArea(pageCount, programBytes)` (R118). -/
def execWriteProgramArea (pageCount : Nat) (s : State) : Answer :=
  admitted s (match narrow 8 pageCount with
    | some n => .next (finish (runWriteProgramArea (argsOf s.cfg .writeProgramArea n 0 0) n
        (beginOp .writeProgramArea (.writeProgramArea n) s)))
    | none => .refused .operandOutOfRange)

/-- `ReadProgramArea(pageCount)` (R119). -/
def execReadProgramArea (pageCount : Nat) (s : State) : Answer :=
  admitted s (match narrow 8 pageCount with
    | some n => .next (finish (runReadProgramArea (argsOf s.cfg .readProgramArea n 0 0) n
        (beginOp .readProgramArea (.readProgramArea n) s)))
    | none => .refused .operandOutOfRange)

/-- `RunSelfTest()` (R120). -/
def execRunSelfTest (s : State) : Answer :=
  admitted s (.next (finish (runSelfTestExchange (argsOf s.cfg .runBist 0 0 0)
    (beginOp .runSelfTest .runSelfTest s))))

/-- The flat address of the code-protect byte: byte 1 of the config page (R123, R6). -/
def protectAddress (c : Config) : BitVec 16 :=
  flatOf (pam c .config).1 (BitVec.ofNat 8 Config.cfgProtectOff)

/-- `SetCodeProtect()` (R123): "write the protect byte to zero via `WriteByte`". -/
def execSetCodeProtect (s : State) : Answer :=
  admitted s (.next (finish (runWriteByte
    (argsOf s.cfg .writeFlashByte (pam s.cfg (.flat (protectAddress s.cfg))).1
      (pam s.cfg (.flat (protectAddress s.cfg))).2 Config.protectOnValue)
    (beginOp .setCodeProtect .setCodeProtect s))))

/-- The value test of R124: any non-zero protect byte fails; the page read stays valid (R161). Its phase
is `POST`: DESIGN CHOICE, log entry 12. -/
def testProtect (s : State) : Run OpResult :=
  if readDbuf s Config.cfgProtectOff ≠ Config.protectOnValue then
    .raised .codeProtectVerifyFailure (setPhase .post s)
  else .ok .nothing (setPhase .post s)

/-- `VerifyCodeProtect()` (R124): "re-read the config page and confirm the byte is zero". -/
def execVerifyCodeProtect (s : State) : Answer :=
  admitted s (.next (finish ((runReadPage
    (argsOf s.cfg .readFlashPage (pam s.cfg .config).1 1 0) 1
    (beginOp .verifyCodeProtect .verifyCodeProtect s)).bind fun _ s1 => testProtect s1)))

end Sys2Proof.Machine
end

