-- ==== Sys2Proof/Machine/Frames.lean ====
section
/-! DEFINITION. The meanings of the ten frame rows of the opcode table.

A command frame means the exchange that command stands for (R66: the operation that sends it, its
`ACK_OF`, what follows each acknowledgement; the row's own rule R114 to R120), with the frame's own
three argument bytes: what a HOST that "composes its own exchanges" (R202) has to keep to. It has
everything the row's operation has but a request at the HOST port: the operand that sets a payload
length is read back from the argument bytes by `ARGMAP`. DEDUCED, log entry 4.

An acknowledgement frame means its reception by the operation that expects it (R63, R83): the MODULE
puts exactly this frame on the link next, the engine receives it as any acknowledgement (R112,
R113) and does with it what the row says. DEDUCED, log entry 6. -/

namespace Sys2Proof.Machine

/-- read-SW-version (R114). -/
def execCmdReadSwVersion (arg0 arg1 arg2 : Byte) (s : State) : Answer :=
  admitted s (.next (finish (runReadSwVersion ⟨arg0, arg1, arg2⟩ (beginFrame .readSwVersion s))))

/-- read-flash-page (R115). -/
def execCmdReadFlashPage (arg0 arg1 arg2 : Byte) (s : State) : Answer :=
  admitted s (.next (finish (runReadPage ⟨arg0, arg1, arg2⟩
    (secondOperand (s.cfg.perm .readFlashPage) ⟨arg0, arg1, arg2⟩) (beginFrame .readPage s))))

/-- write-program-area (R118). -/
def execCmdWriteProgramArea (arg0 arg1 arg2 : Byte) (s : State) : Answer :=
  admitted s (.next (finish (runWriteProgramArea ⟨arg0, arg1, arg2⟩
    (firstOperand (s.cfg.perm .writeProgramArea) ⟨arg0, arg1, arg2⟩)
    (beginFrame .writeProgramArea s))))

/-- write-flash-page (R116). -/
def execCmdWriteFlashPage (arg0 arg1 arg2 : Byte) (s : State) : Answer :=
  admitted s (
    if s.dlen.toNat ≠ Config.pageSize then .refused .pageDataNot256
    else .next (finish (runWritePage ⟨arg0, arg1, arg2⟩ (beginFrame .writePage s))))

/-- write-flash-byte (R117). -/
def execCmdWriteFlashByte (arg0 arg1 arg2 : Byte) (s : State) : Answer :=
  admitted s (.next (finish (runWriteByte ⟨arg0, arg1, arg2⟩ (beginFrame .writeByte s))))

/-- run-BIST (R120). -/
def execCmdRunBist (arg0 arg1 arg2 : Byte) (s : State) : Answer :=
  admitted s (.next (finish (runSelfTestExchange ⟨arg0, arg1, arg2⟩ (beginFrame .runSelfTest s))))

/-- read-program-area (R119). -/
def execCmdReadProgramArea (arg0 arg1 arg2 : Byte) (s : State) : Answer :=
  admitted s (.next (finish (runReadProgramArea ⟨arg0, arg1, arg2⟩
    (firstOperand (s.cfg.perm .readProgramArea) ⟨arg0, arg1, arg2⟩)
    (beginFrame .readProgramArea s))))

/-- The MODULE puts a frame on the link: its two chunks are the next the engine receives. -/
def deliverFrame (f : Frame) (s : State) : State := { s with linkIn := frameChunks f ++ s.linkIn }

/-- The reception of an acknowledgement frame with a given opcode (R63, R112). -/
def runAck (op : OpName) (ackOpcode : Byte) (r : Args) (s : State) : Run Frame :=
  recvAck .rxAck1 .valAck1 ackOpcode
    (beginFrame op (deliverFrame (buildFrame ackOpcode r) s))

/-- ack-ok (R83): received and accepted. -/
def execAckOk (r0 r1 r2 : Byte) (s : State) : Answer :=
  admitted s (.next (finish ((runAck .receive s.cfg.ackOk ⟨r0, r1, r2⟩ s).bind
    fun _ s1 => .ok .nothing s1)))

/-- ack-version (R83; "r0..r2 returned as the version"). -/
def execAckVersion (r0 r1 r2 : Byte) (s : State) : Answer :=
  admitted s (.next (finish ((runAck .readSwVersion s.cfg.ackVersion ⟨r0, r1, r2⟩ s).bind
    fun f s1 => .ok (.version f.arg0 f.arg1 f.arg2) s1)))

/-- ack-bist (R83; "byte at offset BIST_RESULT_OFF must be 0"). -/
def execAckBist (r0 r1 r2 : Byte) (s : State) : Answer :=
  admitted s (.next (finish ((runAck .runSelfTest s.cfg.ackBist ⟨r0, r1, r2⟩ s).bind
    fun f s1 => testBist f s1)))

end Sys2Proof.Machine
end

