-- ==== Sys2Proof/Machine/Dispatch.lean ====
section
/-! DEFINITION. One arm per instruction, each a direct call of its meaning. -/

namespace Sys2Proof.Machine

def exec (i : Instr) (s : State) : Host.Outcome State Fault Refusal :=
  match i with
  | .cmdReadSwVersion arg0 arg1 arg2 => Sys2Proof.Machine.execCmdReadSwVersion arg0 arg1 arg2 s
  | .cmdReadFlashPage arg0 arg1 arg2 => Sys2Proof.Machine.execCmdReadFlashPage arg0 arg1 arg2 s
  | .cmdWriteProgramArea arg0 arg1 arg2 => Sys2Proof.Machine.execCmdWriteProgramArea arg0 arg1 arg2 s
  | .cmdWriteFlashPage arg0 arg1 arg2 => Sys2Proof.Machine.execCmdWriteFlashPage arg0 arg1 arg2 s
  | .cmdWriteFlashByte arg0 arg1 arg2 => Sys2Proof.Machine.execCmdWriteFlashByte arg0 arg1 arg2 s
  | .cmdRunBist arg0 arg1 arg2 => Sys2Proof.Machine.execCmdRunBist arg0 arg1 arg2 s
  | .cmdReadProgramArea arg0 arg1 arg2 => Sys2Proof.Machine.execCmdReadProgramArea arg0 arg1 arg2 s
  | .ackOk r0 r1 r2 => Sys2Proof.Machine.execAckOk r0 r1 r2 s
  | .ackVersion r0 r1 r2 => Sys2Proof.Machine.execAckVersion r0 r1 r2 s
  | .ackBist r0 r1 r2 => Sys2Proof.Machine.execAckBist r0 r1 r2 s
  | .buildCommand opcode arg0 arg1 arg2 => Sys2Proof.Machine.execBuildCommand opcode arg0 arg1 arg2 s
  | .validateResponse frame expectedAck => Sys2Proof.Machine.execValidateResponse frame expectedAck s
  | .isReady => Sys2Proof.Machine.execIsReady s
  | .waitReady maxAttempts => Sys2Proof.Machine.execWaitReady maxAttempts s
  | .send => Sys2Proof.Machine.execSend s
  | .receive size => Sys2Proof.Machine.execReceive size s
  | .readSwVersion => Sys2Proof.Machine.execReadSwVersion s
  | .readPage pageIndex pageCount => Sys2Proof.Machine.execReadPage pageIndex pageCount s
  | .writePage pageIndex => Sys2Proof.Machine.execWritePage pageIndex s
  | .writeByte address value => Sys2Proof.Machine.execWriteByte address value s
  | .writeProgramArea pageCount => Sys2Proof.Machine.execWriteProgramArea pageCount s
  | .readProgramArea pageCount => Sys2Proof.Machine.execReadProgramArea pageCount s
  | .runSelfTest => Sys2Proof.Machine.execRunSelfTest s
  | .setCodeProtect => Sys2Proof.Machine.execSetCodeProtect s
  | .verifyCodeProtect => Sys2Proof.Machine.execVerifyCodeProtect s

end Sys2Proof.Machine
end

