-- ==== Sys2Proof/Machine/HostPort.lean ====
section
/-! DEFINITION. The HOST's edge of the engine: starting an operation from its bytes (R61), reading and
writing the named ports (R129), engine reset (R190), the two pins (R196, R197), and the pin sequences
as lists of HOST actions. -/

namespace Sys2Proof.Machine

/-- A request that encodes no instruction (R67 d names `OPSEL = 15`). -/
def refuseUndecodable : DecodeError → Refusal
  | .reservedSelector => .reservedSelector
  | e => .undecodable e

/-- Decode a request and run it. A request that is no instruction is refused by the decoder's name for
it, whatever the flags are. DESIGN CHOICE, log entry 5. -/
def runRequest (request : List Byte) (s : State) : Answer :=
  match decode s.cfg request with
  | .ok i => exec i s
  | .bad e => .refused (refuseUndecodable e)

/-- Go on from a next state; a stop stays one. -/
def andThen (a : Answer) (k : State → Answer) : Answer :=
  match a with
  | .next t => k t
  | .fault f => .fault f
  | .refused r => .refused r

/-- The HOST "fills `DBUF` and sets `DLEN`" (R22) with the buffer a line of a program is written with.
That it does so inside the program, right before the line's operation, and that this write meets its own
refusals before the request is decoded, is the model's: DESIGN CHOICE, log entries 5 and 22. -/
def deliverBuffer (buffer : Option (List Byte)) (s : State) : Answer :=
  match buffer with
  | none => .next s
  | some data =>
    unlessBusy s (
      if data.length ≤ Config.dbufCapacity then .next (fillBuffer data s)
      else .refused .operandOutOfRange)

/-- What follows an operation of a program: the lines after it if it ended `OK` and there are any;
"the first one that ends with an error ends the program" (R68, R170). -/
def continueProgram (more : List ProgramLine) (t : State) : State :=
  match t.status, more with
  | .ok, _ :: _ => { t with hostQ := .program more :: t.hostQ }
  | .ok, [] => t
  | .error _, _ => t

/-- Run the next line of a program (R68); a program of none has ended. That a later line's buffer
reaches `DBUF` when its turn comes, no earlier, is the model's: DESIGN CHOICE, log entry 22. -/
def runProgram (lines : List ProgramLine) (s : State) : Answer :=
  match lines with
  | [] => .next s
  | line :: more =>
    andThen (deliverBuffer line.buffer s) fun s1 =>
      andThen (runRequest line.request s1) fun t => .next (continueProgram more t)

/-- A reset pulse: "a pulse is a brief high" (R198). -/
def resetPulse : List HostAct := [.setResetLine true, .setResetLine false]

/-- The teardown sequence (R197): de-assert PMODE, drive reset low, close the transport, pulse reset. -/
def teardownSequence : List HostAct :=
  [.setPmode false, .setResetLine false, .setOpen false] ++ resetPulse

/-- The HOST's readiness check failed: it timed out, or IsReady answered false (R196, R145). -/
def checkFailed (t : State) : Bool := decide (t.status ≠ .ok ∨ t.result = .ready false)

/-- What follows the readiness check of the connect sequence: de-assert PMODE and ReadSwVersion, or
"failure being `ConnectError{ModuleNotDetected}`" (R196), after which nothing of the session runs but
teardown (R154, R197). That the rest of the HOST's plan is dropped then is the model's form of R154.
DESIGN CHOICE, log entry 23. -/
def afterReadinessCheck (t : State) : State :=
  if checkFailed t then { t with hostError := some .moduleNotDetected, hostQ := teardownSequence }
  else { t with hostError := none, hostQ := .setPmode false :: .start [6] :: t.hostQ }

/-- Step 4 of the connect sequence (R196): "confirm Readiness Gate responds". -/
def confirmReady (readinessCheck : List Byte) (s : State) : Answer :=
  andThen (runRequest readinessCheck s) fun t => .next (afterReadinessCheck t)

/-- Answer a read with a value. -/
def answerRead (v : PortValue) (s : State) : Answer := .next { s with portValue := v }

/-- A HOST read of a frame register: refused while nothing has written it (R26). -/
def readFrame (f : Option Frame) (s : State) : Answer :=
  match f with
  | some f => answerRead (.frame f) s
  | none => .refused .unwrittenRegister

/-- A HOST read of a named port (R129): `MAXATT` "while idle", `DBUF` only while `DVALID = 1` (R22).
A read changes no register. -/
def readPort (p : Port) (s : State) : Answer :=
  match p with
  | .status => answerRead (.status (statusCode s.status)) s
  | .err => answerRead (.flag s.err) s
  | .busy => answerRead (.flag s.busy) s
  | .dvalid => answerRead (.flag s.dvalid) s
  | .maxatt => unlessBusy s (answerRead (.half s.maxatt) s)
  | .pollcnt => answerRead (.half s.pollcnt) s
  | .xcnt => answerRead (.count s.xcnt) s
  | .dlen => answerRead (.count s.dlen) s
  | .txf => readFrame s.txf s
  | .rxf => readFrame s.rxf s
  | .hist => answerRead (.events s.hist) s
  | .dbuf =>
    if s.dvalid then answerRead (.bytes (dbufBytes s s.dlen.toNat)) s else .refused .bufferInvalid
  | .dbufByte off =>
    if s.dvalid = false then .refused .bufferInvalid
    else if off < s.dlen.toNat then answerRead (.bytes [readDbuf s off]) s
    else .fault (.noSuchDbufByte off)

/-- `MAXATT <- v`, "any value 0 to 65535 while `BUSY = 0`" (R17). -/
def writeMaxatt (v : Nat) (s : State) : Answer :=
  unlessBusy s (match narrow 16 v with
    | some w => .next { s with maxatt := w }
    | none => .refused .operandOutOfRange)

/-- The HOST fills `DBUF` from an offset on, within its capacity (R22, U22). `DVALID` is kept: only a
payload Receive writes it. -/
def writeDbuf (off : Nat) (data : List Byte) (s : State) : Answer :=
  unlessBusy s (
    if off + data.length ≤ Config.dbufCapacity then
      .next { s with dbuf := s.dbuf.writeBytes off data }
    else .refused .operandOutOfRange)

/-- `DLEN <- n`, `0 <= n <= 65280` (R22). -/
def writeDlen (n : Nat) (s : State) : Answer :=
  unlessBusy s (
    if n ≤ Config.dbufCapacity then .next { s with dlen := BitVec.ofNat 17 n }
    else .refused .operandOutOfRange)

/-- `OPEN <- b`: the HOST opens and closes the transport, between operations (R23, R156). -/
def setOpen (b : Bool) (s : State) : Answer := unlessBusy s (.next { s with isOpen := b })

/-- One HOST action. -/
def hostStep (a : HostAct) (s : State) : Answer :=
  match a with
  | .start request => runRequest request s
  | .program lines => runProgram lines s
  | .confirmReady readinessCheck => confirmReady readinessCheck s
  | .setOpen b => setOpen b s
  | .writeMaxatt v => writeMaxatt v s
  | .writeDbuf off data => writeDbuf off data s
  | .writeDlen n => writeDlen n s
  | .read p => readPort p s
  | .engineReset => .next (engineReset s)
  | .setPmode b => .next { s with pmode := b }
  | .setResetLine b => .next { s with resetLine := b }

/-- What the machine does next: the HOST's next action, or nothing while it has none: "the engine
executes nothing until the HOST starts an operation" (R191). -/
def runNext (s : State) : Answer :=
  match s.hostQ with
  | [] => .next s
  | a :: rest => hostStep a { s with hostQ := rest }

/-- The state in which the HOST's next action is to start this request, as R195 has it: the
transport open, and the data operand of a WritePage (R62: 256 bytes in `DBUF`) delivered as zeros
if `DLEN` is not 256. DESIGN CHOICE, log entry 7. -/
def placeRequest (request : List Byte) (s : State) : State :=
  let s1 := { s with hostQ := .start request :: s.hostQ, isOpen := true }
  match request with
  | b :: _ =>
    if b = 8 ∧ s.dlen ≠ 256 then
      { s1 with dlen := 256, dbuf := Memory.writeBytes [] 0 (List.replicate 256 0) }
    else s1
  | [] => s1

/-- The connect sequence of R196 up to `OPEN <- 1`: assert PMODE, pulse reset, open transport. -/
def connectPins : List HostAct := .setPmode true :: (resetPulse ++ [.setOpen true])

/-- The whole connect sequence (R196), with the readiness check the HOST chooses (D38). -/
def connectSequence (readinessCheck : List Byte) : List HostAct :=
  connectPins ++ [.confirmReady readinessCheck]

end Sys2Proof.Machine
end

