-- ==== Sys2Proof/Machine/Step.lean ====
section
/-! DEFINITION. One step of the machine: the HOST's next action. An operation is one step (the HOST
"blocks until it ends", R3; "there is nothing for a weaker model to reorder", R50). -/

namespace Sys2Proof.Machine

/-- One step. -/
def step (s : State) : Host.Outcome State Fault Refusal := runNext s

/-- The state in which the next step fetches and runs the instruction of a table word. -/
def State.withFetchWord (s : State) (nbits w : Nat) : State := placeRequest (requestOfWord nbits w) s

end Sys2Proof.Machine
end

