-- ==== Sys2Proof/Machine/HostData.lean ====
section
/-! DEFINITION. The HOST's own data and plans (45_host_software.md), as functions on plain data. The
scope file leaves them out of the block (R5 c): "nothing here adds engine state". They are here so
that a claim about the HOST's use of the engine has its terms. -/

namespace Sys2Proof.Machine

/-- What the HOST reads from the info page (R141, R43). -/
structure ChipInfo where
  lot : List Byte
  moduleId : List Byte
  locked : Bool
  deriving DecidableEq, Repr

/-- Decode the info page by the open offsets of R7: a 5-byte lot id, a 4-byte module id, and the byte
"equalling a sentinel value" (R141). -/
def chipInfo (c : Config) (page : List Byte) : ChipInfo where
  lot := (page.drop c.infoLotOff.toNat).take 5
  moduleId := (page.drop c.infoModidOff.toNat).take 4
  locked := page[c.infoLockOff.toNat]? == some c.lockSentinel

/-- "The code-protect byte forced back to "unprotected" state" in the HOST's copy (R142). -/
def forceUnprotected (image : List Byte) : List Byte :=
  image.set Config.cfgProtectOff Config.protectOffValue

/-- "The device page is entirely 0xFF (blank chip)" (R142). -/
def isBlank (image : List Byte) : Bool := image.all (· == 0xFF)

/-- `Merge(oldImage, overrideImage)` (R143): the override's value at every offset it defines, the old
value elsewhere. -/
def mergeImage (old : List Byte) (override : List (Nat × Byte)) : List Byte :=
  old.mapIdx fun i b => (override.lookup i).getD b

/-- The first offset at which two buffers differ (R152), counted from `i`. -/
def firstMismatchFrom : Nat → List Byte → List Byte → Option Nat
  | _, [], [] => none
  | i, a :: as, b :: bs => if a = b then firstMismatchFrom (i + 1) as bs else some i
  | i, _, _ => some i

/-- The compare of `Verified` (R152): "compare byte-for-byte", the first differing offset. -/
def firstMismatch (written readBack : List Byte) : Option Nat :=
  firstMismatchFrom 0 written readBack

/-- The session's states (R144). -/
inductive SessionState where
  | disconnected | connected | infoRead | configReady | programWritten | configWritten | selfTested
  | verified | locked | done | error
  deriving DecidableEq, Repr

/-- The session's order (R144), its two optional states skipped or not, and `Error` "reachable from
any point" and absorbing. -/
def SessionState.canFollow : SessionState → SessionState → Bool
  | .disconnected, .connected => true
  | .connected, .infoRead => true
  | .infoRead, .configReady => true
  | .configReady, .programWritten => true
  | .configReady, .configWritten => true
  | .programWritten, .configWritten => true
  | .configWritten, .selfTested => true
  | .selfTested, .verified => true
  | .verified, .locked => true
  | .verified, .done => true
  | .locked, .done => true
  | _, .error => true
  | _, _ => false

/-- The four byte writes that patch the first bytes of the config page (R149, R203). -/
def patchWrites (c : Config) (image : List Byte) : List Instr :=
  (List.range 4).map fun i =>
    .writeByte (c.configPage.toNat * Config.pageSize + i) (image.getD i 0).toNat

/-- The engine operations a session state issues (R145 to R153), for a working config image and
whether a program image is written; the page count is byte 0 of the image (R148). -/
def SessionState.operations (c : Config) (image : List Byte) (program : Bool) :
    SessionState → List Instr
  | .disconnected => []
  | .connected => [.readSwVersion]
  | .infoRead => [.readInfoPage c]
  | .configReady => [.readConfigPage c]
  | .programWritten => [.writeProgramArea (image.getD Config.cfgPagecountOff 0).toNat]
  | .configWritten => .writeConfigPage c :: (if program then patchWrites c image else [])
  | .selfTested => [.runSelfTest]
  | .verified =>
    .readConfigPage c ::
      (if program then [.readProgramArea (image.getD Config.cfgPagecountOff 0).toNat] else [])
  | .locked => [.setCodeProtect, .verifyCodeProtect]
  | .done => []
  | .error => []

end Sys2Proof.Machine
end

