-- ==== Sys2Proof/Safety.lean ====
section
/-! DEFINITION. The terms claims are made in: when the engine admits an operation, what the MODULE
answers (the premises of R56 as scripts), what `HIST` then holds, and the invariant every step
keeps. -/

namespace Sys2Proof

open Machine

/-! ### What an instruction is, by the tables of R27, R66 and R80 -/

/-- The operations that perform, or would perform, wire events: all but BuildCommand and
ValidateResponse (R80, R172). -/
def Instr.usesWire : Instr → Bool
  | .buildCommand _ _ _ _ | .validateResponse _ _ => false
  | .cmdReadSwVersion _ _ _ | .cmdReadFlashPage _ _ _ | .cmdWriteProgramArea _ _ _
  | .cmdWriteFlashPage _ _ _ | .cmdWriteFlashByte _ _ _ | .cmdRunBist _ _ _
  | .cmdReadProgramArea _ _ _ => true
  | .ackOk _ _ _ | .ackVersion _ _ _ | .ackBist _ _ _ => true
  | .isReady | .waitReady _ | .send | .receive _ | .readSwVersion | .readPage _ _ | .writePage _
  | .writeByte _ _ | .writeProgramArea _ | .readProgramArea _ | .runSelfTest | .setCodeProtect
  | .verifyCodeProtect => true

/-- The instructions that receive a payload into `DBUF` (R27). -/
def Instr.readsPayload : Instr → Bool
  | .receive _ | .readPage _ _ | .readProgramArea _ | .verifyCodeProtect => true
  | .cmdReadFlashPage _ _ _ | .cmdReadProgramArea _ _ _ => true
  | .buildCommand _ _ _ _ | .validateResponse _ _ => false
  | .cmdReadSwVersion _ _ _ | .cmdWriteProgramArea _ _ _ | .cmdWriteFlashPage _ _ _
  | .cmdWriteFlashByte _ _ _ | .cmdRunBist _ _ _ => false
  | .ackOk _ _ _ | .ackVersion _ _ _ | .ackBist _ _ _ => false
  | .isReady | .waitReady _ | .send | .readSwVersion | .writePage _ | .writeByte _ _
  | .writeProgramArea _ | .runSelfTest | .setCodeProtect => false

/-- The instructions that build a command frame (R27, column `TXF`). -/
def Instr.writesTxf : Instr → Bool
  | .validateResponse _ _ | .isReady | .waitReady _ | .send | .receive _ => false
  | .ackOk _ _ _ | .ackVersion _ _ _ | .ackBist _ _ _ => false
  | .buildCommand _ _ _ _ => true
  | .cmdReadSwVersion _ _ _ | .cmdReadFlashPage _ _ _ | .cmdWriteProgramArea _ _ _
  | .cmdWriteFlashPage _ _ _ | .cmdWriteFlashByte _ _ _ | .cmdRunBist _ _ _
  | .cmdReadProgramArea _ _ _ => true
  | .readSwVersion | .readPage _ _ | .writePage _ | .writeByte _ _ | .writeProgramArea _
  | .readProgramArea _ | .runSelfTest | .setCodeProtect | .verifyCodeProtect => true

/-- The instructions that receive an acknowledgement (R27, column `RXF`). -/
def Instr.writesRxf : Instr → Bool
  | .buildCommand _ _ _ _ | .validateResponse _ _ | .isReady | .waitReady _ | .send
  | .receive _ => false
  | .ackOk _ _ _ | .ackVersion _ _ _ | .ackBist _ _ _ => true
  | .cmdReadSwVersion _ _ _ | .cmdReadFlashPage _ _ _ | .cmdWriteProgramArea _ _ _
  | .cmdWriteFlashPage _ _ _ | .cmdWriteFlashByte _ _ _ | .cmdRunBist _ _ _
  | .cmdReadProgramArea _ _ _ => true
  | .readSwVersion | .readPage _ _ | .writePage _ | .writeByte _ _ | .writeProgramArea _
  | .readProgramArea _ | .runSelfTest | .setCodeProtect | .verifyCodeProtect => true

/-- The command an instruction sends and its argument bytes (R66, R64): the seven command frames, and
the nine Flash Page Access operations by `ARGMAP`. -/
def Instr.exchange? (c : Config) : Instr → Option (Command × Args)
  | .cmdReadSwVersion a0 a1 a2 => some (.readSwVersion, ⟨a0, a1, a2⟩)
  | .cmdReadFlashPage a0 a1 a2 => some (.readFlashPage, ⟨a0, a1, a2⟩)
  | .cmdWriteProgramArea a0 a1 a2 => some (.writeProgramArea, ⟨a0, a1, a2⟩)
  | .cmdWriteFlashPage a0 a1 a2 => some (.writeFlashPage, ⟨a0, a1, a2⟩)
  | .cmdWriteFlashByte a0 a1 a2 => some (.writeFlashByte, ⟨a0, a1, a2⟩)
  | .cmdRunBist a0 a1 a2 => some (.runBist, ⟨a0, a1, a2⟩)
  | .cmdReadProgramArea a0 a1 a2 => some (.readProgramArea, ⟨a0, a1, a2⟩)
  | .readSwVersion => some (.readSwVersion, ⟨0, 0, 0⟩)
  | .readPage p n =>
    some (.readFlashPage,
      place c.argMap.readFlashPage (BitVec.ofNat 8 p) (BitVec.ofNat 8 n) 0)
  | .writePage p => some (.writeFlashPage, place c.argMap.writeFlashPage (BitVec.ofNat 8 p) 0 0)
  | .writeByte a v =>
    some (.writeFlashByte, place c.argMap.writeFlashByte (BitVec.ofNat 8 (a / 256))
      (BitVec.ofNat 8 (a % 256)) (BitVec.ofNat 8 v))
  | .writeProgramArea n =>
    some (.writeProgramArea, place c.argMap.writeProgramArea (BitVec.ofNat 8 n) 0 0)
  | .readProgramArea n =>
    some (.readProgramArea, place c.argMap.readProgramArea (BitVec.ofNat 8 n) 0 0)
  | .runSelfTest => some (.runBist, ⟨0, 0, 0⟩)
  | .setCodeProtect => some (.writeFlashByte, place c.argMap.writeFlashByte c.configPage 1 0)
  | .verifyCodeProtect => some (.readFlashPage, place c.argMap.readFlashPage c.configPage 1 0)
  | .ackOk _ _ _ | .ackVersion _ _ _ | .ackBist _ _ _ => none
  | .buildCommand _ _ _ _ | .validateResponse _ _ => none
  | .isReady | .waitReady _ | .send | .receive _ => none

/-- How many payload bytes of `DBUF` an instruction sends (R66): 0 if it sends none. -/
def Instr.sendSize (c : Config) : Instr → Nat
  | .cmdWriteProgramArea a0 a1 a2 =>
    (firstOperand c.argMap.writeProgramArea ⟨a0, a1, a2⟩).toNat * 256
  | .cmdWriteFlashPage _ _ _ => 256
  | .writePage _ => 256
  | .writeProgramArea n => n * 256
  | .cmdReadSwVersion _ _ _ | .cmdReadFlashPage _ _ _ | .cmdWriteFlashByte _ _ _
  | .cmdRunBist _ _ _ | .cmdReadProgramArea _ _ _ => 0
  | .ackOk _ _ _ | .ackVersion _ _ _ | .ackBist _ _ _ => 0
  | .buildCommand _ _ _ _ | .validateResponse _ _ => 0
  | .isReady | .waitReady _ | .send | .receive _ => 0
  | .readSwVersion | .readPage _ _ | .writeByte _ _ | .readProgramArea _ | .runSelfTest
  | .setCodeProtect | .verifyCodeProtect => 0

/-- How many payload bytes an instruction receives into `DBUF` (R66, R103): 0 if it receives none. -/
def Instr.recvSize (c : Config) : Instr → Nat
  | .cmdReadFlashPage a0 a1 a2 =>
    (secondOperand c.argMap.readFlashPage ⟨a0, a1, a2⟩).toNat * 256
  | .cmdReadProgramArea a0 a1 a2 =>
    (firstOperand c.argMap.readProgramArea ⟨a0, a1, a2⟩).toNat * 256
  | .receive n => n
  | .readPage _ n => n * 256
  | .readProgramArea n => n * 256
  | .verifyCodeProtect => 256
  | .cmdReadSwVersion _ _ _ | .cmdWriteProgramArea _ _ _ | .cmdWriteFlashPage _ _ _
  | .cmdWriteFlashByte _ _ _ | .cmdRunBist _ _ _ => 0
  | .ackOk _ _ _ | .ackVersion _ _ _ | .ackBist _ _ _ => 0
  | .buildCommand _ _ _ _ | .validateResponse _ _ => 0
  | .isReady | .waitReady _ | .send => 0
  | .readSwVersion | .writePage _ | .writeByte _ _ | .writeProgramArea _ | .runSelfTest
  | .setCodeProtect => 0

/-- The instructions that send a payload of `DBUF` and await a second acknowledgement (R66). -/
def Instr.writesPayload : Instr → Bool
  | .cmdWriteProgramArea _ _ _ | .cmdWriteFlashPage _ _ _ | .writePage _ | .writeProgramArea _ => true
  | .cmdReadSwVersion _ _ _ | .cmdReadFlashPage _ _ _ | .cmdWriteFlashByte _ _ _
  | .cmdRunBist _ _ _ | .cmdReadProgramArea _ _ _ => false
  | .ackOk _ _ _ | .ackVersion _ _ _ | .ackBist _ _ _ => false
  | .buildCommand _ _ _ _ | .validateResponse _ _ => false
  | .isReady | .waitReady _ | .send | .receive _ => false
  | .readSwVersion | .readPage _ _ | .writeByte _ _ | .readProgramArea _ | .runSelfTest
  | .setCodeProtect | .verifyCodeProtect => false

/-- What `REQ` holds after an instruction with well-formed operands (R13): the request of an operation;
a frame leaves it alone (log entry 4). -/
def Instr.latched (i : Instr) (s : State) : Option Request :=
  match i with
  | .cmdReadSwVersion _ _ _ | .cmdReadFlashPage _ _ _ | .cmdWriteProgramArea _ _ _
  | .cmdWriteFlashPage _ _ _ | .cmdWriteFlashByte _ _ _ | .cmdRunBist _ _ _
  | .cmdReadProgramArea _ _ _ => s.req
  | .ackOk _ _ _ | .ackVersion _ _ _ | .ackBist _ _ _ => s.req
  | .buildCommand o a0 a1 a2 => some (.buildCommand o a0 a1 a2)
  | .validateResponse f e => some (.validateResponse f e)
  | .isReady => some .isReady
  | .waitReady n => some (.waitReady (BitVec.ofNat 16 n))
  | .send => some .send
  | .receive n => some (.receive (BitVec.ofNat 17 n))
  | .readSwVersion => some .readSwVersion
  | .readPage p n => some (.readPage (BitVec.ofNat 8 p) (BitVec.ofNat 8 n))
  | .writePage p => some (.writePage (BitVec.ofNat 8 p))
  | .writeByte a v => some (.writeByte (BitVec.ofNat 16 a) (BitVec.ofNat 8 v))
  | .writeProgramArea n => some (.writeProgramArea (BitVec.ofNat 8 n))
  | .readProgramArea n => some (.readProgramArea (BitVec.ofNat 8 n))
  | .runSelfTest => some .runSelfTest
  | .setCodeProtect => some .setCodeProtect
  | .verifyCodeProtect => some .verifyCodeProtect

/-- The lengths an instruction moves are such as R101, R103 and R116 ask for: whole chunks of at most
65280 bytes for a Send and a Receive, one page for a page write; nothing is asked of the others (a
wrong length of a program is the error of R118). -/
def Instr.LengthFits (i : Instr) (s : State) : Prop :=
  match i with
  | .send => s.dlen.toNat ≤ Config.dbufCapacity ∧ s.dlen.toNat % Config.chunk = 0
  | .receive n => n ≤ Config.dbufCapacity ∧ n % Config.chunk = 0
  | .writePage _ | .cmdWriteFlashPage _ _ _ => s.dlen.toNat = Config.pageSize
  | _ => True

/-- The data an instruction sends is there (R116 "`data` length must equal 256", R118 "length must
equal `pageCount*256`"); nothing is asked of the others. -/
def Instr.DataFits (i : Instr) (s : State) : Prop :=
  match i with
  | .cmdWriteProgramArea _ _ _ | .cmdWriteFlashPage _ _ _ | .writePage _ | .writeProgramArea _ =>
    s.dlen.toNat = i.sendSize s.cfg
  | _ => True

end Sys2Proof

namespace Sys2Proof.Machine

/-- The engine stands where R110 asks it to: `OPEN = 1`, `ERR = 0`, and no operation running (R16). -/
def State.Admits (s : State) : Prop := s.busy = false ∧ s.err = false ∧ s.isOpen = true

/-- Between operations: `SEQ = (IDLE, IDLE, 0)` and `BUSY = 0` (R14, R16). -/
def State.Idle (s : State) : Prop := s.seq = SeqPos.idle ∧ s.busy = false

/-! ### What the MODULE answers -/

/-- The readiness answers of one gate that succeeds after `k` failed polls (R100). -/
def gateAnswers (k : Nat) : List Bool := List.replicate k false ++ [true]

/-- The readiness answers of a transfer whose gates fail `ks` times in turn. -/
def answers (ks : List Nat) : List Bool := ks.flatMap gateAnswers

/-- The events of one such gate. -/
def gateEvents (k : Nat) : List Event := (gateAnswers k).map Event.poll

/-- The events of sending chunks, the gate of each failing as often as its entry of `ks` says. -/
def sentEvents (ks : List Nat) (cs : List Chunk) : List Event :=
  (ks.zip cs).flatMap fun kc => gateEvents kc.1 ++ [.tx kc.2]

/-- The events of receiving chunks. -/
def rcvdEvents (ks : List Nat) (cs : List Chunk) : List Event :=
  (ks.zip cs).flatMap fun kc => gateEvents kc.1 ++ [.rx kc.2]

/-- The events of a command frame and its acknowledgement (R112): two chunks out, two in. -/
def commandEvents (ks : List Nat) (command ack : Frame) : List Event :=
  sentEvents (ks.take 2) (frameChunks command) ++ rcvdEvents (ks.drop 2) (frameChunks ack)

/-- `POLLCNT` after gates that failed `ks` times in turn: a gate that passes its immediate check runs
no WaitReady; another's WaitReady fails one time less than the gate (R100, R19). -/
def pollcntAfter (p : BitVec 16) (ks : List Nat) : BitVec 16 :=
  ks.foldl (fun p k => if k = 0 then p else BitVec.ofNat 16 (k - 1)) p

/-- Gates that all succeed within the bound `MAXATT` (R56 `ModuleReady`). -/
def withinBound (m : BitVec 16) (ks : List Nat) : Prop := ∀ k ∈ ks, k ≤ m.toNat

/-- The answers of a MODULE that lets a gate time out (R100: `MAXATT + 1` polls, all false). -/
def silence (m : BitVec 16) : List Bool := List.replicate (m.toNat + 1) false

/-- The events of a gate that times out. -/
def silentEvents (m : BitVec 16) : List Event := List.replicate (m.toNat + 1) (.poll false)

/-- The MODULE's coming answers are a script: readiness answers for gates failing `ks` times in turn,
all within the bound, and the chunks `cs` on the link. `rest` and `more` are what is left after it. -/
def State.Scripted (s : State) (ks : List Nat) (rest : List Bool) (cs more : List Chunk) : Prop :=
  withinBound s.maxatt ks ∧ s.readyIn = answers ks ++ rest ∧ s.linkIn = cs ++ more

/-! ### What exchanges leave (R112 to R120), for a scripted MODULE -/

/-- After a command frame and its acknowledgement, nothing more: ended `OK`. -/
def afterExchange (s : State) (ks : List Nat) (rest : List Bool) (more : List Chunk)
    (command ack : Frame) : State :=
  { s with
    txf := some command, rxf := some ack
    readyIn := rest, linkIn := more
    hist := s.hist ++ commandEvents ks command ack
    pollcnt := pollcntAfter s.pollcnt ks
    xcnt := 8
    seq := SeqPos.idle, busy := false, status := .ok, result := .nothing }

/-- After the acknowledgement the chunks `cs` were received into `DBUF`: ended `OK`. -/
def afterRead (s : State) (ks ls : List Nat) (rest : List Bool) (more : List Chunk)
    (command ack : Frame) (cs : List Chunk) : State :=
  { afterExchange s (ks ++ ls) rest more command ack with
    hist := s.hist ++ commandEvents ks command ack ++ rcvdEvents ls cs
    xcnt := BitVec.ofNat 17 (4 * cs.length)
    dbuf := s.dbuf.writeBytes 0 (cs.flatMap Chunk.bytes)
    dlen := BitVec.ofNat 17 (4 * cs.length), dvalid := true
    result := .buffer }

/-- After the first acknowledgement `size` bytes of `DBUF` were sent and a second acknowledgement
received: ended `OK`. -/
def afterWrite (s : State) (ks ls ms : List Nat) (rest : List Bool) (more : List Chunk)
    (command ack ack2 : Frame) (size : Nat) : State :=
  { afterExchange s (ks ++ ls ++ ms) rest more command ack2 with
    hist := s.hist ++ commandEvents ks command ack ++
      sentEvents ls (chunksOf (dbufBytes s size)) ++ rcvdEvents ms (frameChunks ack2) }

/-- The same registers, ended with an error (R170). -/
def State.failed (t : State) (e : EngineError) : State :=
  { t with status := .error e, err := true, result := .nothing }

/-- A read that ended with an error before its payload was complete (R22, R170): `DVALID = 0` and no
byte of `DBUF` known. -/
def State.readLost (t : State) : State := { t with dvalid := false, dbuf := [] }

/-! ### What `HIST` holds -/

/-- Every `Tx` and `Rx` is immediately preceded by a `Poll(true)` (R104); `ready` is whether the event
before was one. -/
def gatedFrom : Bool → List Event → Bool
  | _, [] => true
  | _, .poll b :: es => gatedFrom b es
  | ready, .tx _ :: es => ready && gatedFrom false es
  | ready, .rx _ :: es => ready && gatedFrom false es

/-- Every transfer of a history is gated (R104). -/
def gated (es : List Event) : Bool := gatedFrom false es

/-- The chunks sent in a history, in order (R21: "the byte stream sent to the MODULE"). -/
def sent : List Event → List Chunk
  | [] => []
  | .tx c :: es => c :: sent es
  | .poll _ :: es => sent es
  | .rx _ :: es => sent es

/-- The chunks received in a history, in order (R21). -/
def received : List Event → List Chunk
  | [] => []
  | .rx c :: es => c :: received es
  | .poll _ :: es => received es
  | .tx _ :: es => received es

/-- The number of readiness samples in a history. -/
def polls : List Event → Nat
  | [] => 0
  | .poll _ :: es => polls es + 1
  | .tx _ :: es => polls es
  | .rx _ :: es => polls es

/-! ### The invariant -/

/-- What holds between operations and every step keeps. -/
structure State.Inv (s : State) : Prop where
  /-- No operation is running between steps (R14, R16). -/
  idle : s.Idle
  /-- `DBUF`'s storage is in canonical form, inside its capacity (R22). -/
  dbuf : s.dbuf.wf = true
  /-- "`0 <= DLEN <= 65280`" (R22). -/
  dlen : s.dlen.toNat ≤ Config.dbufCapacity
  /-- `XCNT` counts whole chunks of at most 65280 bytes (R20, R104). -/
  xcnt : s.xcnt.toNat % Config.chunk = 0 ∧ s.xcnt.toNat ≤ Config.dbufCapacity
  /-- `TXF` holds no frame or a well-formed one (R11, R80). -/
  txf : ∀ f, s.txf = some f → frameOk f = true
  /-- Every transfer was gated (R104, R200). -/
  hist : gated s.hist = true

end Sys2Proof.Machine
end

