-- ==== Sys2Proof/Certificates/Slice0/Obligations.lean ====
section
/-! DEFINITION. The statements for the provers, in the order of OBLIGATIONS.json. Each docstring says
which rule of spec/ it formalises. Statements about what an operation leaves are made for a
scripted MODULE (any number of failed polls within the bound before every chunk, any bytes on the
link; log entry 9), where they give the whole next state, and for every MODULE, where they say what
holds whatever is answered. The field `result` (the returned value) is the model's own, log entry 8;
what the ten frame rows of the opcode table do is the model's reading, log entries 4 and 6. That
`REQ` still holds the request after its operation has ended, the pure operations' requests too, is
the model's choice, log entry 20 (R13 has it "constant until it ends"). -/

open Sys2Proof Sys2Proof.Machine

/-! ### The codec (40_frame_codec.md) -/

/-- R82: "checksum = (sum of bytes at offsets 2..6 inclusive) mod 256". -/
def Obligations.ChecksumIsSumOfOffsetsTwoToSix : Prop :=
  ∀ f : Frame, (checksumOf f).toNat =
    (f.sync2.toNat + f.opcode.toNat + f.arg0.toNat + f.arg1.toNat + f.arg2.toNat) % 256

/-- R81: BuildCommand writes all eight bytes of `TXF` and `STATUS`, whatever `OPEN` and `ERR` are,
and otherwise only the latched request (the frame is the result: log entry 8); the checksum is
0x00 exactly when the opcode and arguments sum to 91 modulo 256. That `REQ` keeps an operation's
request after its end is the model's choice, log entry 20. -/
def Obligations.BuildCommandResult : Prop :=
  ∀ (s : State) (o a0 a1 a2 : Byte), s.busy = false →
    exec (.buildCommand o a0 a1 a2) s = .next { s with
      req := some (.buildCommand o a0 a1 a2)
      txf := some ⟨0xA5, 0x5A, 0xA5, o, a0, a1, a2, 0xA5 + o + a0 + a1 + a2⟩
      status := .ok
      result := .frame ⟨0xA5, 0x5A, 0xA5, o, a0, a1, a2, 0xA5 + o + a0 + a1 + a2⟩ } ∧
    (0xA5 + o + a0 + a1 + a2 = 0 ↔ o + a0 + a1 + a2 = 91)

/-- R83: ValidateResponse called by the HOST writes `STATUS` and the latched request only (nothing
is returned), checksum first, then the sync bytes, then the opcode; it sets no `ERR`, whatever
`OPEN` and `ERR` are. That `REQ` keeps an operation's request after its end is the model's choice,
log entry 20. -/
def Obligations.ValidateResponseResult : Prop :=
  ∀ (s : State) (f : Frame) (e : Byte), s.busy = false →
    exec (.validateResponse f e) s = .next { s with
      req := some (.validateResponse f e)
      result := .nothing
      status :=
        if f.checksum ≠ checksumOf f then .error .checksumMismatch
        else if f.sync0 ≠ 0xA5 ∨ f.sync1 ≠ 0x5A ∨ f.sync2 ≠ 0xA5 then .error .unexpectedResponse
        else if f.opcode ≠ e then .error .unexpectedResponse
        else .ok }

/-- R84: acceptance is exact; the mismatch is named otherwise, and a built command validates
against its own opcode. (Which one where both hold is R83's order, the spec's decision D3.
`validate` is what ValidateResponse's `STATUS` and every acknowledgement's fate follow:
ValidateResponseResult, BadFirstAcknowledgementStops.) -/
def Obligations.ValidateAcceptsExactly : Prop :=
  (∀ (f : Frame) (e : Byte),
    (validate f e = none ↔
      (f.sync0 = 0xA5 ∧ f.sync1 = 0x5A ∧ f.sync2 = 0xA5) ∧ f.opcode = e ∧
        f.checksum = checksumOf f) ∧
    (validate f e = some .checksumMismatch ↔ f.checksum ≠ checksumOf f) ∧
    (validate f e = some .unexpectedResponse ↔ f.checksum = checksumOf f ∧
      (f.sync0 ≠ 0xA5 ∨ f.sync1 ≠ 0x5A ∨ f.sync2 ≠ 0xA5 ∨ f.opcode ≠ e))) ∧
  ∀ (e : Byte) (a : Args), validate (buildFrame e a) e = none

/-- R85: the checksum detects any change of one byte among offsets 2 to 7 of a well-formed frame,
and nothing at offsets 0 and 1, which only the sync comparison covers. -/
def Obligations.SingleByteChangesAreDetected : Prop :=
  ∀ (f : Frame) (v e : Byte), frameOk f = true →
    (v ≠ f.sync2 → validate { f with sync2 := v } e = some .checksumMismatch) ∧
    (v ≠ f.opcode → validate { f with opcode := v } e = some .checksumMismatch) ∧
    (v ≠ f.arg0 → validate { f with arg0 := v } e = some .checksumMismatch) ∧
    (v ≠ f.arg1 → validate { f with arg1 := v } e = some .checksumMismatch) ∧
    (v ≠ f.arg2 → validate { f with arg2 := v } e = some .checksumMismatch) ∧
    (v ≠ f.checksum → validate { f with checksum := v } e = some .checksumMismatch) ∧
    (v ≠ f.sync0 → validate { f with sync0 := v } e = some .unexpectedResponse) ∧
    (v ≠ f.sync1 → validate { f with sync1 := v } e = some .unexpectedResponse)

/-! ### The readiness gate (41_readiness_gate.md) -/

/-- R91: IsReady is one sample, returned and recorded; whatever the MODULE answers. That `REQ`
keeps an operation's request after its end is the model's choice, log entry 20. -/
def Obligations.IsReadyIsOneSample : Prop :=
  ∀ s : State, s.Admits →
    exec .isReady s = .next { (nextReady s).2 with
      req := some .isReady
      hist := s.hist ++ [.poll (nextReady s).1]
      result := .ready (nextReady s).1
      seq := SeqPos.idle, busy := false, status := .ok }

/-- R92, for a scripted MODULE: the first true answer, at poll `k + 1` of at most `n`, ends the
wait with `POLLCNT = k`; `n` false answers time out with `POLLCNT = n`, and no further poll is
made. That `REQ` keeps an operation's request after its end is the model's choice, log entry
20. -/
def Obligations.WaitReadyScriptedResult : Prop :=
  ∀ (s : State) (n k : Nat) (rest : List Bool), s.Admits → n < 2 ^ 16 →
    (k < n → s.readyIn = gateAnswers k ++ rest →
      exec (.waitReady n) s = .next { s with
        req := some (.waitReady (BitVec.ofNat 16 n))
        readyIn := rest
        hist := s.hist ++ List.replicate k (.poll false) ++ [.poll true]
        pollcnt := BitVec.ofNat 16 k
        seq := SeqPos.idle, busy := false, status := .ok, result := .nothing }) ∧
    (s.readyIn = List.replicate n false ++ rest →
      exec (.waitReady n) s = .next { s with
        req := some (.waitReady (BitVec.ofNat 16 n))
        readyIn := rest
        hist := s.hist ++ List.replicate n (.poll false)
        pollcnt := BitVec.ofNat 16 n
        seq := SeqPos.idle, busy := false
        status := .error .timeout, err := true, result := .nothing })

/-- R93, for every MODULE: exact poll accounting. WaitReady either stops at its first true poll,
the `k + 1`-st of at most `n`, with `OK`, or has made exactly `n` false ones and times out. -/
def Obligations.WaitReadyPollAccounting : Prop :=
  ∀ (s : State) (n : Nat), s.Admits → n < 2 ^ 16 →
    ∃ t, exec (.waitReady n) s = .next t ∧
      ((∃ k, k < n ∧ t.status = .ok ∧ t.err = false ∧ t.pollcnt.toNat = k ∧
          t.hist = s.hist ++ List.replicate k (.poll false) ++ [.poll true]) ∨
        (t.status = .error .timeout ∧ t.err = true ∧ t.pollcnt.toNat = n ∧
          t.hist = s.hist ++ List.replicate n (.poll false)))

/-! ### The chunked transport (42_chunked_transport.md) -/

/-- R101: Send moves `DBUF[0 .. DLEN - 1]` in 4-byte chunks, each after its gate. That `REQ` keeps
an operation's request after its end is the model's choice, log entry 20. -/
def Obligations.SendResult : Prop :=
  ∀ (s : State) (ks : List Nat) (rest : List Bool), s.Admits →
    s.dlen.toNat ≤ 65280 → s.dlen.toNat % 4 = 0 → ks.length = s.dlen.toNat / 4 →
    withinBound s.maxatt ks → s.readyIn = answers ks ++ rest →
    exec .send s = .next { s with
      req := some .send
      readyIn := rest
      hist := s.hist ++ sentEvents ks (chunksOf (dbufBytes s s.dlen.toNat))
      pollcnt := pollcntAfter s.pollcnt ks
      xcnt := s.dlen
      seq := SeqPos.idle, busy := false, status := .ok, result := .nothing }

/-- R101: when chunk `k` times out, chunks 0 to `k - 1` have been transmitted, no later one is,
and `XCNT = 4k`; the wait was `MAXATT + 1` polls, all false (R100). That `REQ` keeps an
operation's request after its end is the model's choice, log entry 20. -/
def Obligations.SendTimeoutResult : Prop :=
  ∀ (s : State) (ks : List Nat) (rest : List Bool), s.Admits →
    s.dlen.toNat ≤ 65280 → s.dlen.toNat % 4 = 0 → ks.length < s.dlen.toNat / 4 →
    withinBound s.maxatt ks → s.readyIn = answers ks ++ (silence s.maxatt ++ rest) →
    exec .send s = .next { s with
      req := some .send
      readyIn := rest
      hist := s.hist ++ sentEvents ks ((chunksOf (dbufBytes s s.dlen.toNat)).take ks.length) ++
        silentEvents s.maxatt
      pollcnt := s.maxatt
      xcnt := BitVec.ofNat 17 (4 * ks.length)
      seq := SeqPos.idle, busy := false
      status := .error .timeout, err := true, result := .nothing }

/-- R103: Receive reads exactly `size / 4` chunks, each after its gate, into `DBUF` from offset 0
on, and sets `DLEN` and `DVALID`. That `REQ` keeps an operation's request after its end is the
model's choice, log entry 20. -/
def Obligations.ReceiveResult : Prop :=
  ∀ (s : State) (size : Nat) (ks : List Nat) (cs : List Chunk) (rest : List Bool)
    (more : List Chunk), s.Admits → size ≤ 65280 → size % 4 = 0 →
    ks.length = size / 4 → cs.length = size / 4 → s.Scripted ks rest cs more →
    exec (.receive size) s = .next { s with
      req := some (.receive (BitVec.ofNat 17 size))
      readyIn := rest, linkIn := more
      hist := s.hist ++ rcvdEvents ks cs
      pollcnt := pollcntAfter s.pollcnt ks
      xcnt := BitVec.ofNat 17 size
      dbuf := s.dbuf.writeBytes 0 (cs.flatMap Chunk.bytes)
      dlen := BitVec.ofNat 17 size, dvalid := true
      seq := SeqPos.idle, busy := false, status := .ok, result := .buffer }

/-- R103, R22: a Receive that times out at chunk `k` has consumed `k` chunks, which are lost: no
buffer is returned, `DVALID = 0`, no byte of `DBUF` is known and `DLEN` is kept (the model's form
of "unspecified", log entry 10). That `REQ` keeps an operation's request after its end is the
model's choice, log entry 20. -/
def Obligations.ReceiveTimeoutResult : Prop :=
  ∀ (s : State) (size : Nat) (ks : List Nat) (cs : List Chunk) (rest : List Bool)
    (more : List Chunk), s.Admits → size ≤ 65280 → size % 4 = 0 →
    ks.length < size / 4 → cs.length = ks.length →
    s.Scripted ks (silence s.maxatt ++ rest) cs more →
    exec (.receive size) s = .next { s with
      req := some (.receive (BitVec.ofNat 17 size))
      readyIn := rest, linkIn := more
      hist := s.hist ++ rcvdEvents ks cs ++ silentEvents s.maxatt
      pollcnt := s.maxatt
      xcnt := BitVec.ofNat 17 (4 * ks.length)
      dbuf := [], dvalid := false
      seq := SeqPos.idle, busy := false
      status := .error .timeout, err := true, result := .nothing }

/-- R101, R103, R175: a length that is no multiple of 4 is refused; so is a size above 65280
(tested first: log entry 5). -/
def Obligations.TransferLengthRefusals : Prop :=
  ∀ (s : State) (size : Nat), s.Admits →
    (s.dlen.toNat ≤ 65280 → s.dlen.toNat % 4 ≠ 0 →
      exec .send s = .refused .lengthNotChunkMultiple) ∧
    (65280 < s.dlen.toNat → exec .send s = .refused .operandOutOfRange) ∧
    (size ≤ 65280 → size % 4 ≠ 0 → exec (.receive size) s = .refused .lengthNotChunkMultiple) ∧
    (65280 < size → exec (.receive size) s = .refused .operandOutOfRange)

/-- R104, for every MODULE: a Send of `L` bytes that succeeds appends exactly `L / 4` `Tx` events,
no `Rx`, and between `L / 4` and `(L / 4) * (MAXATT + 1)` polls; a Receive of `L` bytes likewise;
and every `Tx` and `Rx` among them is immediately preceded by a `Poll(true)`. -/
def Obligations.TransferEventCounts : Prop :=
  ∀ (s t : State) (size : Nat), t.status = .ok →
    (exec .send s = .next t → ∃ d, t.hist = s.hist ++ d ∧ gated d = true ∧
      (sent d).length = s.dlen.toNat / 4 ∧ received d = [] ∧
      s.dlen.toNat / 4 ≤ polls d ∧ polls d ≤ s.dlen.toNat / 4 * (s.maxatt.toNat + 1)) ∧
    (exec (.receive size) s = .next t → ∃ d, t.hist = s.hist ++ d ∧ gated d = true ∧
      (received d).length = size / 4 ∧ sent d = [] ∧
      size / 4 ≤ polls d ∧ polls d ≤ size / 4 * (s.maxatt.toNat + 1))

/-! ### Flash Page Access (43_flash_page_access.md), for a scripted MODULE -/

/-- R114, and its command frame (log entry 4): the version is the acknowledgement's bytes 4 to 6.
That `REQ` keeps an operation's request after its end is the model's choice, log entry 20. -/
def Obligations.ReadSwVersionResult : Prop :=
  ∀ (s : State) (a : Args) (k0 k1 k2 k3 : Nat) (rest : List Bool) (ack : Frame)
    (more : List Chunk), s.Admits →
    s.Scripted [k0, k1, k2, k3] rest (frameChunks ack) more →
    validate ack s.cfg.ackVersion = none →
    exec .readSwVersion s = .next { afterExchange s [k0, k1, k2, k3] rest more
      (buildFrame s.cfg.opcReadSwVersion ⟨0, 0, 0⟩) ack with
      req := some .readSwVersion, result := .version ack.arg0 ack.arg1 ack.arg2 } ∧
    exec (.cmdReadSwVersion a.arg0 a.arg1 a.arg2) s = .next
      { afterExchange s [k0, k1, k2, k3] rest more
        (buildFrame s.cfg.opcReadSwVersion a) ack with
        result := .version ack.arg0 ack.arg1 ack.arg2 }

/-- R115, and its command frame (log entry 4): `pageCount * 256` bytes into `DBUF` in `pageCount *
64` chunks. The frame has any arguments `b` whose page count, as `ARGMAP` places it, is `n`. That
`REQ` keeps an operation's request after its end is the model's choice, log entry 20. -/
def Obligations.ReadPageResult : Prop :=
  ∀ (s : State) (p n : Nat) (b : Args) (k0 k1 k2 k3 : Nat) (ls : List Nat) (rest : List Bool)
    (ack : Frame) (cs more : List Chunk), s.Admits → p < 256 → n < 256 →
    ls.length = 64 * n → cs.length = 64 * n →
    s.Scripted ([k0, k1, k2, k3] ++ ls) rest (frameChunks ack ++ cs) more →
    validate ack s.cfg.ackOk = none →
    exec (.readPage p n) s = .next { afterRead s [k0, k1, k2, k3] ls rest more
      (buildFrame s.cfg.opcReadFlashPage
        (place s.cfg.argMap.readFlashPage (BitVec.ofNat 8 p) (BitVec.ofNat 8 n) 0)) ack cs with
      req := some (.readPage (BitVec.ofNat 8 p) (BitVec.ofNat 8 n)) } ∧
    ((secondOperand s.cfg.argMap.readFlashPage b).toNat = n →
      exec (.cmdReadFlashPage b.arg0 b.arg1 b.arg2) s = .next
        (afterRead s [k0, k1, k2, k3] ls rest more (buildFrame s.cfg.opcReadFlashPage b) ack cs))

/-- R119, and its command frame (log entry 4): `pageCount * 256` bytes of the program area into
`DBUF`. The frame has any arguments `b` whose page count, as `ARGMAP` places it, is `n`. That
`REQ` keeps an operation's request after its end is the model's choice, log entry 20. -/
def Obligations.ReadProgramAreaResult : Prop :=
  ∀ (s : State) (n : Nat) (b : Args) (k0 k1 k2 k3 : Nat) (ls : List Nat) (rest : List Bool)
    (ack : Frame) (cs more : List Chunk), s.Admits → n < 256 →
    ls.length = 64 * n → cs.length = 64 * n →
    s.Scripted ([k0, k1, k2, k3] ++ ls) rest (frameChunks ack ++ cs) more →
    validate ack s.cfg.ackOk = none →
    exec (.readProgramArea n) s = .next { afterRead s [k0, k1, k2, k3] ls rest more
      (buildFrame s.cfg.opcReadProgramArea
        (place s.cfg.argMap.readProgramArea (BitVec.ofNat 8 n) 0 0)) ack cs with
      req := some (.readProgramArea (BitVec.ofNat 8 n)) } ∧
    ((firstOperand s.cfg.argMap.readProgramArea b).toNat = n →
      exec (.cmdReadProgramArea b.arg0 b.arg1 b.arg2) s = .next
        (afterRead s [k0, k1, k2, k3] ls rest more (buildFrame s.cfg.opcReadProgramArea b) ack cs))

/-- R116, and its command frame (log entry 4) with any arguments `b`: the 256 bytes of `DBUF` in
64 chunks between two acknowledgements. That `REQ` keeps an operation's request after its end is
the model's choice, log entry 20. -/
def Obligations.WritePageResult : Prop :=
  ∀ (s : State) (p : Nat) (b : Args) (k0 k1 k2 k3 : Nat) (ls : List Nat) (m0 m1 : Nat)
    (rest : List Bool) (ack ack2 : Frame) (more : List Chunk), s.Admits → p < 256 →
    s.dlen.toNat = 256 → ls.length = 64 →
    s.Scripted ([k0, k1, k2, k3] ++ ls ++ [m0, m1]) rest (frameChunks ack ++ frameChunks ack2)
      more →
    validate ack s.cfg.ackOk = none → validate ack2 s.cfg.ackOk = none →
    exec (.writePage p) s = .next { afterWrite s [k0, k1, k2, k3] ls [m0, m1] rest more
      (buildFrame s.cfg.opcWriteFlashPage
        (place s.cfg.argMap.writeFlashPage (BitVec.ofNat 8 p) 0 0)) ack ack2 256 with
      req := some (.writePage (BitVec.ofNat 8 p)) } ∧
    exec (.cmdWriteFlashPage b.arg0 b.arg1 b.arg2) s = .next
      (afterWrite s [k0, k1, k2, k3] ls [m0, m1] rest more
        (buildFrame s.cfg.opcWriteFlashPage b) ack ack2 256)

/-- R116: a length other than 256 is refused, before any wire event; for the command frame too
(log entry 4). -/
def Obligations.WritePageRefusesOtherLengths : Prop :=
  ∀ (s : State) (p : Nat) (a0 a1 a2 : Byte), s.Admits → p < 256 → s.dlen.toNat ≠ 256 →
    exec (.writePage p) s = .refused .pageDataNot256 ∧
    exec (.cmdWriteFlashPage a0 a1 a2) s = .refused .pageDataNot256

/-- R117, and its command frame (log entry 4) with any arguments `b`: one acknowledgement, no
payload; the frame's arguments are the high byte of the address, its low byte and the value, as
`ARGMAP` places them. That `REQ` keeps an operation's request after its end is the model's choice,
log entry 20. -/
def Obligations.WriteByteResult : Prop :=
  ∀ (s : State) (address value : Nat) (b : Args) (k0 k1 k2 k3 : Nat) (rest : List Bool)
    (ack : Frame) (more : List Chunk), s.Admits → address < 65536 → value < 256 →
    s.Scripted [k0, k1, k2, k3] rest (frameChunks ack) more →
    validate ack s.cfg.ackOk = none →
    exec (.writeByte address value) s = .next { afterExchange s [k0, k1, k2, k3] rest more
      (buildFrame s.cfg.opcWriteFlashByte
        (place s.cfg.argMap.writeFlashByte (BitVec.ofNat 8 (address / 256))
          (BitVec.ofNat 8 (address % 256)) (BitVec.ofNat 8 value))) ack with
      req := some (.writeByte (BitVec.ofNat 16 address) (BitVec.ofNat 8 value)) } ∧
    exec (.cmdWriteFlashByte b.arg0 b.arg1 b.arg2) s = .next
      (afterExchange s [k0, k1, k2, k3] rest more (buildFrame s.cfg.opcWriteFlashByte b) ack)

/-- R118, and its command frame (log entry 4) with any arguments `b` whose page count is `n`: with
the right length, `pageCount * 256` bytes of `DBUF` between two acknowledgements. That `REQ` keeps
an operation's request after its end is the model's choice, log entry 20. -/
def Obligations.WriteProgramAreaResult : Prop :=
  ∀ (s : State) (n : Nat) (b : Args) (k0 k1 k2 k3 : Nat) (ls : List Nat) (m0 m1 : Nat)
    (rest : List Bool) (ack ack2 : Frame) (more : List Chunk), s.Admits → n < 256 →
    s.dlen.toNat = n * 256 → ls.length = 64 * n →
    s.Scripted ([k0, k1, k2, k3] ++ ls ++ [m0, m1]) rest (frameChunks ack ++ frameChunks ack2)
      more →
    validate ack s.cfg.ackOk = none → validate ack2 s.cfg.ackOk = none →
    exec (.writeProgramArea n) s = .next { afterWrite s [k0, k1, k2, k3] ls [m0, m1] rest more
      (buildFrame s.cfg.opcWriteProgramArea
        (place s.cfg.argMap.writeProgramArea (BitVec.ofNat 8 n) 0 0)) ack ack2 (n * 256) with
      req := some (.writeProgramArea (BitVec.ofNat 8 n)) } ∧
    ((firstOperand s.cfg.argMap.writeProgramArea b).toNat = n →
      exec (.cmdWriteProgramArea b.arg0 b.arg1 b.arg2) s = .next
        (afterWrite s [k0, k1, k2, k3] ls [m0, m1] rest more
          (buildFrame s.cfg.opcWriteProgramArea b) ack ack2 (n * 256)))

/-- R166: "`len(programBytes) != pageCount*256`" ends WriteProgramArea (and its command frame, log
entry 4, with any arguments `b` whose page count is `n`) with `ProgramSizeMismatch` before any
wire event: nothing is sent, and `TXF` is not written (95_test_vectors.md V-F6). That `REQ` keeps
an operation's request after its end is the model's choice, log entry 20. -/
def Obligations.ProgramSizeMismatchBeforeAnyWireEvent : Prop :=
  ∀ (s : State) (n : Nat) (b : Args), s.Admits → n < 256 → s.dlen.toNat ≠ n * 256 →
    exec (.writeProgramArea n) s = .next { s with
      req := some (.writeProgramArea (BitVec.ofNat 8 n))
      status := .error .programSizeMismatch, err := true
      seq := SeqPos.idle, busy := false, result := .nothing } ∧
    ((firstOperand s.cfg.argMap.writeProgramArea b).toNat = n →
      exec (.cmdWriteProgramArea b.arg0 b.arg1 b.arg2) s = .next { s with
        status := .error .programSizeMismatch, err := true
        seq := SeqPos.idle, busy := false, result := .nothing })

/-- R120, and its command frame (log entry 4): `OK` exactly when the designated byte of the
validated acknowledgement is zero, else `SelfTestFailure` with the acknowledgement in `RXF`. That
`REQ` keeps an operation's request after its end is the model's choice, log entry 20. -/
def Obligations.RunSelfTestResult : Prop :=
  ∀ (s : State) (a : Args) (k0 k1 k2 k3 : Nat) (rest : List Bool) (ack : Frame)
    (more : List Chunk), s.Admits →
    s.Scripted [k0, k1, k2, k3] rest (frameChunks ack) more →
    validate ack s.cfg.ackBist = none →
    let r := match s.cfg.bistResultOff with
      | .off4 => ack.arg0
      | .off5 => ack.arg1
      | .off6 => ack.arg2
    let t := afterExchange s [k0, k1, k2, k3] rest more (buildFrame s.cfg.opcRunBist ⟨0, 0, 0⟩) ack
    let u := afterExchange s [k0, k1, k2, k3] rest more (buildFrame s.cfg.opcRunBist a) ack
    (r = 0 → exec .runSelfTest s = .next { t with req := some .runSelfTest } ∧
      exec (.cmdRunBist a.arg0 a.arg1 a.arg2) s = .next u) ∧
    (r ≠ 0 → exec .runSelfTest s =
        .next { t.failed .selfTestFailure with req := some .runSelfTest } ∧
      exec (.cmdRunBist a.arg0 a.arg1 a.arg2) s = .next (u.failed .selfTestFailure))

/-- R123: SetCodeProtect sends the frame `(CONFIG_PAGE, 0x01, 0x00)` of write-flash-byte, as
`ARGMAP` places it, and awaits one acknowledgement. That `REQ` keeps an operation's request after
its end is the model's choice, log entry 20. -/
def Obligations.SetCodeProtectResult : Prop :=
  ∀ (s : State) (k0 k1 k2 k3 : Nat) (rest : List Bool) (ack : Frame) (more : List Chunk),
    s.Admits → s.Scripted [k0, k1, k2, k3] rest (frameChunks ack) more →
    validate ack s.cfg.ackOk = none →
    exec .setCodeProtect s = .next { afterExchange s [k0, k1, k2, k3] rest more
      (buildFrame s.cfg.opcWriteFlashByte
        (place s.cfg.argMap.writeFlashByte s.cfg.configPage 0x01 0x00)) ack with
      req := some .setCodeProtect }

/-- R124: VerifyCodeProtect reads the config page and is `OK` exactly when byte 1 of it is 0x00;
any other value is `CodeProtectVerifyFailure`, the page staying valid in `DBUF` (R161). That `REQ`
keeps an operation's request after its end is the model's choice, log entry 20. -/
def Obligations.VerifyCodeProtectResult : Prop :=
  ∀ (s : State) (k0 k1 k2 k3 : Nat) (ls : List Nat) (rest : List Bool) (ack : Frame) (c : Chunk)
    (cs more : List Chunk), s.Admits → ls.length = 64 → cs.length = 63 →
    s.Scripted ([k0, k1, k2, k3] ++ ls) rest (frameChunks ack ++ c :: cs) more →
    validate ack s.cfg.ackOk = none →
    let t := afterRead s [k0, k1, k2, k3] ls rest more
      (buildFrame s.cfg.opcReadFlashPage
        (place s.cfg.argMap.readFlashPage s.cfg.configPage 1 0)) ack (c :: cs)
    (c.b1 = 0 → exec .verifyCodeProtect s =
      .next { t with req := some .verifyCodeProtect, result := .nothing }) ∧
    (c.b1 ≠ 0 → exec .verifyCodeProtect s =
      .next { t.failed .codeProtectVerifyFailure with req := some .verifyCodeProtect })

/-- The three acknowledgement frames, received (R63, R112, R113; the rows of the opcode table).
What the instruction itself is taken to be is the model's reading, log entry 6. -/
def Obligations.AcknowledgementFrameResults : Prop :=
  ∀ (s : State) (r : Args) (k l : Nat) (rest : List Bool), s.Admits →
    withinBound s.maxatt [k, l] → s.readyIn = answers [k, l] ++ rest →
    let t (ack : Frame) : State := { s with
      rxf := some ack, readyIn := rest
      hist := s.hist ++ rcvdEvents [k, l] (frameChunks ack)
      pollcnt := pollcntAfter s.pollcnt [k, l]
      xcnt := 8
      seq := SeqPos.idle, busy := false, status := .ok, result := .nothing }
    exec (.ackOk r.arg0 r.arg1 r.arg2) s = .next (t (buildFrame s.cfg.ackOk r)) ∧
    exec (.ackVersion r.arg0 r.arg1 r.arg2) s = .next
      { t (buildFrame s.cfg.ackVersion r) with result := .version r.arg0 r.arg1 r.arg2 } ∧
    (bistByte s.cfg.bistResultOff (buildFrame s.cfg.ackBist r) = 0 →
      exec (.ackBist r.arg0 r.arg1 r.arg2) s = .next (t (buildFrame s.cfg.ackBist r))) ∧
    (bistByte s.cfg.bistResultOff (buildFrame s.cfg.ackBist r) ≠ 0 →
      exec (.ackBist r.arg0 r.arg1 r.arg2) s =
        .next ((t (buildFrame s.cfg.ackBist r)).failed .selfTestFailure))

/-! ### Errors of an exchange -/

/-- R51, R163, R164: whatever exchange runs, a first acknowledgement that fails validation ends it
with that error: the whole command went out, no payload byte is sent or read, `RXF` holds the
offending frame, `ERR` is set; a read leaves `DVALID = 0` and no byte of `DBUF` known (R22; log
entry 10). The command frames are exchanges too (log entry 4). That `REQ` keeps an operation's
request after its end is the model's choice, log entry 20. -/
def Obligations.BadFirstAcknowledgementStops : Prop :=
  ∀ (i : Instr) (s : State) (cmd : Command) (a : Args) (k0 k1 k2 k3 : Nat) (rest : List Bool)
    (ack : Frame) (more : List Chunk) (e : EngineError),
    i.exchange? s.cfg = some (cmd, a) → i.wf = true → i.DataFits s → s.Admits →
    s.Scripted [k0, k1, k2, k3] rest (frameChunks ack) more →
    validate ack (s.cfg.ackOf cmd) = some e →
    exec i s = .next
      (let t := (afterExchange s [k0, k1, k2, k3] rest more (buildFrame (s.cfg.opcode cmd) a)
        ack).failed e
       { (if i.readsPayload then t.readLost else t) with req := i.latched s })

/-- R112, R165: a command whose frame or acknowledgement times out at chunk `ks.length` of its
four: what went out went out, `RXF` is not updated, `POLLCNT = MAXATT`, `XCNT` counts the
interrupted transfer; a read leaves `DVALID = 0` and no byte of `DBUF` known (log entry 10).
Command frames too (log entry 4). That `REQ` keeps an operation's request after its end is the
model's choice, log entry 20. -/
def Obligations.CommandTimeoutStops : Prop :=
  ∀ (i : Instr) (s : State) (cmd : Command) (a : Args) (ks : List Nat) (rest : List Bool)
    (cs more : List Chunk),
    i.exchange? s.cfg = some (cmd, a) → i.wf = true → i.DataFits s → s.Admits →
    ks.length < 4 → cs.length = ks.length - 2 →
    s.Scripted ks (silence s.maxatt ++ rest) cs more →
    exec i s = .next
      (let t : State := { s with
        txf := some (buildFrame (s.cfg.opcode cmd) a)
        readyIn := rest, linkIn := more
        hist := s.hist ++
          sentEvents (ks.take 2) (frameChunks (buildFrame (s.cfg.opcode cmd) a)) ++
          rcvdEvents (ks.drop 2) cs ++ silentEvents s.maxatt
        pollcnt := s.maxatt
        xcnt := BitVec.ofNat 17 (4 * (if ks.length < 2 then ks.length else ks.length - 2))
        seq := SeqPos.idle, busy := false
        status := .error .timeout, err := true, result := .nothing }
       { (if i.readsPayload then t.readLost else t) with req := i.latched s })

/-- R115, R119, R116, R118, R165, R22: a payload that times out at its chunk `ls.length`,
whichever exchange runs. The chunks before it have moved, `RXF` holds the validated
acknowledgement, `POLLCNT = MAXATT` and `XCNT` counts them. A read's chunks are lost: `DVALID =
0`, no byte of `DBUF` known, `DLEN` kept (log entry 10). Command frames too (log entry 4). That
`REQ` keeps an operation's request after its end is the model's choice, log entry 20. -/
def Obligations.PayloadTimeoutStops : Prop :=
  ∀ (i : Instr) (s : State) (cmd : Command) (a : Args) (k0 k1 k2 k3 : Nat) (ls : List Nat)
    (rest : List Bool) (ack : Frame) (cs more : List Chunk),
    i.exchange? s.cfg = some (cmd, a) → i.wf = true → i.DataFits s → s.Admits →
    validate ack (s.cfg.ackOf cmd) = none →
    let t (moved : List Event) : State :=
      { (afterExchange s [k0, k1, k2, k3] rest more (buildFrame (s.cfg.opcode cmd) a) ack).failed
          .timeout with
        hist := s.hist ++ commandEvents [k0, k1, k2, k3] (buildFrame (s.cfg.opcode cmd) a) ack ++
          moved ++ silentEvents s.maxatt
        pollcnt := s.maxatt
        xcnt := BitVec.ofNat 17 (4 * ls.length)
        req := i.latched s }
    (4 * ls.length < i.recvSize s.cfg → cs.length = ls.length →
      s.Scripted ([k0, k1, k2, k3] ++ ls) (silence s.maxatt ++ rest) (frameChunks ack ++ cs) more →
      exec i s = .next (t (rcvdEvents ls cs)).readLost) ∧
    (4 * ls.length < i.sendSize s.cfg →
      s.Scripted ([k0, k1, k2, k3] ++ ls) (silence s.maxatt ++ rest) (frameChunks ack) more →
      exec i s = .next (t (sentEvents ls (chunksOf (dbufBytes s (i.sendSize s.cfg))))))

/-- R113, R126, R163, R164, R165: whichever write runs, once its whole payload is sent: a second
acknowledgement that fails validation ends it with that error and stays in `RXF`; one that times
out at its chunk `ms.length` leaves the first acknowledgement there. Command frames too (log entry
4). That `REQ` keeps an operation's request after its end is the model's choice, log entry 20. -/
def Obligations.SecondAcknowledgementFailures : Prop :=
  ∀ (i : Instr) (s : State) (cmd : Command) (a : Args) (k0 k1 k2 k3 : Nat) (ls ms : List Nat)
    (rest : List Bool) (ack ack2 : Frame) (cs more : List Chunk) (e : EngineError),
    i.exchange? s.cfg = some (cmd, a) → i.wf = true → i.DataFits s → s.Admits →
    i.writesPayload = true → 4 * ls.length = i.sendSize s.cfg →
    validate ack (s.cfg.ackOf cmd) = none →
    (ms.length = 2 → validate ack2 s.cfg.ackOk = some e →
      s.Scripted ([k0, k1, k2, k3] ++ ls ++ ms) rest (frameChunks ack ++ frameChunks ack2) more →
      exec i s = .next { (afterWrite s [k0, k1, k2, k3] ls ms rest more
        (buildFrame (s.cfg.opcode cmd) a) ack ack2 (i.sendSize s.cfg)).failed e with
        req := i.latched s }) ∧
    (ms.length < 2 → cs.length = ms.length →
      s.Scripted ([k0, k1, k2, k3] ++ ls ++ ms) (silence s.maxatt ++ rest) (frameChunks ack ++ cs)
        more →
      exec i s = .next
        { (afterExchange s [k0, k1, k2, k3] rest more (buildFrame (s.cfg.opcode cmd) a) ack).failed
            .timeout with
          hist := s.hist ++
            commandEvents [k0, k1, k2, k3] (buildFrame (s.cfg.opcode cmd) a) ack ++
            sentEvents ls (chunksOf (dbufBytes s (i.sendSize s.cfg))) ++ rcvdEvents ms cs ++
            silentEvents s.maxatt
          pollcnt := s.maxatt
          xcnt := BitVec.ofNat 17 (4 * ms.length)
          req := i.latched s })

/-! ### Every instruction, every MODULE -/

/-- R170, R14, R15, R16: an operation that uses the wire and ends leaves `SEQ = (IDLE, IDLE, 0)`
and `BUSY = 0`; it ran with `ERR = 0`, and leaves `ERR = 1` exactly if `STATUS` is an error;
`HIST` has only grown, by gated transfers (R104). -/
def Obligations.WireOperationEndsIdle : Prop :=
  ∀ (i : Instr) (s t : State), i.usesWire = true → exec i s = .next t →
    t.seq = SeqPos.idle ∧ t.busy = false ∧ s.err = false ∧
    (t.err = true ↔ t.status ≠ .ok) ∧
    ∃ d, t.hist = s.hist ++ d ∧ gated d = true

/-- R27: what an instruction leaves unchanged, for all 25. The configuration constants (R18),
`OPEN` (R23), `MAXATT` (R17), what the HOST last read, the HOST's plans and its pins are written
by none; `TXF`, `RXF` and the payload buffer only by those R27 lists, every byte of `DBUF`
included; `REQ` latches an operation's request; IsReady counts no failed poll and, like WaitReady,
moves no byte; a pure operation writes only `TXF` (BuildCommand), `REQ`, `STATUS` and the result.
(That a frame leaves `REQ` alone is the model's choice, log entry 4.) That `REQ` keeps an
operation's request after its end is the model's choice, log entry 20. -/
def Obligations.FrameOfEveryInstruction : Prop :=
  ∀ (i : Instr) (s t : State), exec i s = .next t →
    (t.cfg = s.cfg ∧ t.isOpen = s.isOpen ∧ t.maxatt = s.maxatt ∧ t.portValue = s.portValue ∧
      t.hostQ = s.hostQ ∧ t.pmode = s.pmode ∧ t.resetLine = s.resetLine ∧
      t.hostError = s.hostError) ∧
    t.req = i.latched s ∧
    (i.writesTxf = false → t.txf = s.txf) ∧
    (i.writesRxf = false → t.rxf = s.rxf) ∧
    (i.readsPayload = false → t.dlen = s.dlen ∧ t.dvalid = s.dvalid ∧
      ∀ x, t.dbuf.read? x = s.dbuf.read? x) ∧
    (i = .isReady → t.pollcnt = s.pollcnt) ∧
    (i = .isReady ∨ (∃ n, i = .waitReady n) → t.xcnt = s.xcnt) ∧
    (i.usesWire = false → t = { s with
      txf := t.txf, req := t.req, status := t.status, result := t.result })

/-- R22, R103: a read that ends `OK` holds the last bytes received, as many as its payload has,
from offset 0 on, `DLEN` their number and `DVALID = 1`; every byte of `DBUF` beyond them is as
before. (For VerifyCodeProtect also when the value test failed. Command frames too: log entry
4.) -/
def Obligations.ReadStoresReceivedBytes : Prop :=
  ∀ (i : Instr) (s t : State), i.readsPayload = true → exec i s = .next t →
    t.status = .ok ∨ t.status = .error .codeProtectVerifyFailure →
    ∃ cs : List Chunk, (∃ d, t.hist = s.hist ++ d ∧ cs <:+ received d) ∧
      4 * cs.length = i.recvSize s.cfg ∧
      t.dvalid = true ∧ t.dlen.toNat = 4 * cs.length ∧
      (∀ x (h : x < (cs.flatMap Chunk.bytes).length),
        t.dbuf.read? x = some (cs.flatMap Chunk.bytes)[x]) ∧
      ∀ x, 4 * cs.length ≤ x → t.dbuf.read? x = s.dbuf.read? x

/-- R126, R53: whatever the MODULE answers, an exchange transmits nothing but its command frame
and then its payload, in order and in whole chunks, if every byte of the payload is known. -/
def Obligations.ExchangeTransmitsCommandThenPayload : Prop :=
  ∀ (i : Instr) (s t : State) (cmd : Command) (a : Args),
    i.exchange? s.cfg = some (cmd, a) → exec i s = .next t →
    (∀ x < i.sendSize s.cfg, (s.dbuf.read? x).isSome) →
    ∃ d, t.hist = s.hist ++ d ∧
      sent d <+: frameChunks (buildFrame (s.cfg.opcode cmd) a) ++
        chunksOf (dbufBytes s (i.sendSize s.cfg))

/-- R51: whatever the MODULE answers, payload moves only after the acknowledgement of the command
has been received and validated: an exchange that sent or received more than two chunks had
received a frame that validates, as its first two. -/
def Obligations.PayloadOnlyAfterValidatedAck : Prop :=
  ∀ (i : Instr) (s t : State) (cmd : Command) (a : Args),
    i.exchange? s.cfg = some (cmd, a) → exec i s = .next t →
    ∃ d, t.hist = s.hist ++ d ∧
      (2 < (sent d).length ∨ 2 < (received d).length →
        ∃ ack, validate ack (s.cfg.ackOf cmd) = none ∧ frameChunks ack <+: received d)

/-- R163, R164, R161: a `ChecksumMismatch` or `UnexpectedResponse` of an exchange leaves the
offending frame in `RXF`, and it is the frame last received. -/
def Obligations.RxfHoldsOffendingFrame : Prop :=
  ∀ (i : Instr) (s t : State) (cmd : Command) (a : Args) (e : EngineError),
    i.exchange? s.cfg = some (cmd, a) → exec i s = .next t → t.status = .error e →
    e = .checksumMismatch ∨ e = .unexpectedResponse →
    ∃ f, t.rxf = some f ∧ validate f (s.cfg.ackOf cmd) = some e ∧
      ∃ d, t.hist = s.hist ++ d ∧ frameChunks f <:+ received d

/-- R165 to R168: where each error can come from. IsReady never fails; WaitReady, Send and Receive
only time out. R166 and R167 name WriteProgramArea and RunSelfTest "only"; the model has their
command frames, and the acknowledgement of a self-test, as instructions too, and so as further
sources: log entries 4 and 6, the model's reading. -/
def Obligations.WhereEachErrorComesFrom : Prop :=
  ∀ (i : Instr) (s t : State) (e : EngineError), exec i s = .next t → t.status = .error e →
    i ≠ .isReady ∧
    (e = .programSizeMismatch →
      (∃ n, i = .writeProgramArea n) ∨ ∃ a0 a1 a2, i = .cmdWriteProgramArea a0 a1 a2) ∧
    (e = .selfTestFailure → i = .runSelfTest ∨ (∃ a0 a1 a2, i = .cmdRunBist a0 a1 a2) ∨
      ∃ a0 a1 a2, i = .ackBist a0 a1 a2) ∧
    (e = .codeProtectVerifyFailure → i = .verifyCodeProtect) ∧
    ((∃ n, i = .waitReady n) ∨ i = .send ∨ (∃ n, i = .receive n) → e = .timeout)

/-- R210: an operation that is admitted, its operands and lengths as they must be, ends; and
whenever an operation ends it has performed at most 16326 chunks, at most `MAXATT + 1` polls for
each chunk moved and one more that timed out (for a WaitReady, at most its own bound). It rests on
R210's proviso that `RxChunk` returns (U8; log entry 11), and takes the frame rows as log entries
4 and 6 do. -/
def Obligations.WireEventsAreBounded : Prop :=
  ∀ (i : Instr) (s : State),
    (s.Admits → i.wf = true → i.LengthFits s → ∃ t, exec i s = .next t) ∧
    ∀ t, exec i s = .next t →
      ∃ d, t.hist = s.hist ++ d ∧ (sent d).length + (received d).length ≤ 16326 ∧
        ((∀ n, i ≠ .waitReady n) →
          polls d ≤ ((sent d).length + (received d).length + 1) * (s.maxatt.toNat + 1) ∧
          polls d ≤ 16326 * (s.maxatt.toNat + 1)) ∧
        ∀ n, i = .waitReady n → polls d ≤ n

/-! ### Refusals (60_exceptions.md R172, R175) -/

/-- R172: while `ERR = 1` every operation other than BuildCommand and ValidateResponse is refused.
(Under this name also where another test fails: log entry 5.) -/
def Obligations.LatchedErrorRefusesWireOperations : Prop :=
  ∀ (i : Instr) (s : State), s.busy = false → s.err = true →
    (i.usesWire = true → exec i s = .refused .errorLatched) ∧
    (i.usesWire = false → ∃ t, exec i s = .next t ∧ t.err = true)

/-- R23: every operation that performs a wire event requires `OPEN = 1` and is refused otherwise.
(Under this name also where an operand or a length fails too: log entry 5.) -/
def Obligations.ClosedTransportRefusesWireOperations : Prop :=
  ∀ (i : Instr) (s : State), s.busy = false → s.err = false → s.isOpen = false →
    i.usesWire = true → exec i s = .refused .transportClosed

/-- R16: a request while `BUSY = 1` is refused. (Under this name also where other tests fail: log
entry 5. No run of the model reaches `BUSY = 1` between steps: log entry 12.) -/
def Obligations.BusyRefusesEveryRequest : Prop :=
  ∀ (i : Instr) (s : State), s.busy = true → exec i s = .refused .busy

/-- R175: an operand that does not fit its register is refused (`OperandOutOfRange`). (Under this
name also where a length test fails too: log entry 5.) -/
def Obligations.OutOfRangeOperandsAreRefused : Prop :=
  ∀ (i : Instr) (s : State), s.Admits → i.wf = false → exec i s = .refused .operandOutOfRange

/-! ### Operands (R111, R64, R69) -/

/-- R111: the page-address multiplexer, its inverse, and `PayloadLen`. -/
def Obligations.PageAddressMultiplexer : Prop :=
  ∀ (c : Config) (p o n : Byte) (a : BitVec 16),
    pam c (.explicit p) = (p, 0) ∧ pam c .config = (c.configPage, 0) ∧
    pam c .info = (c.infoPage, 0) ∧
    (pam c (.flat a)).1.toNat = a.toNat / 256 ∧ (pam c (.flat a)).2.toNat = a.toNat % 256 ∧
    (flatOf p o).toNat = p.toNat * 256 + o.toNat ∧
    flatOf (pam c (.flat a)).1 (pam c (.flat a)).2 = a ∧ pam c (.flat (flatOf p o)) = (p, o) ∧
    payloadLen n = n.toNat * 256 ∧ payloadLen n ≤ 65280

/-- R64: where the operands stand under the spec's own `ARGMAP`; and, under any of the
permutations the model admits (log entry 17), they read back. -/
def Obligations.ArgMapPlacesOperands : Prop :=
  (∀ (c : Config) (cmd : Command) (x y z : Byte), c.argMap = Config.argMapR64 →
    argsOf c cmd x y z = ⟨x, y, z⟩) ∧
  ∀ (m : ArgPerm) (x y z : Byte),
    firstOperand m (place m x y z) = x ∧ secondOperand m (place m x y z) = y ∧
    thirdOperand m (place m x y z) = z

/-- R69: SetCodeProtect is exactly `WriteByte(CONFIG_PAGE*256 + 1, 0x00)`, but for the request
latched, which `REQ` keeps after the end (log entry 20). -/
def Obligations.SetCodeProtectIsWriteByte : Prop :=
  ∀ s : State, s.Admits →
    ∃ t, exec (.writeByte (s.cfg.configPage.toNat * 256 + 1) 0) s = .next t ∧
      exec .setCodeProtect s = .next { t with req := some .setCodeProtect }

/-! ### Encoding (30_encoding.md) -/

/-- Decode and encode agree for every operation of the HOST port and every command frame, with
every operand at every value its encoding admits, if the seven command opcodes are pairwise
distinct (R7). The operand layout of a HOST request is the model's choice, log entry 2. Where an
acknowledgement opcode equals a command's, the command wins, the earlier row: log entry 3. -/
def Obligations.DecodeEncodeOperationsAndCommands : Prop :=
  ∀ (c : Config) (i : Instr), c.commandsDistinct → i.wf = true →
    (i.opsel?.isSome = true ∨ (i.exchange? c).isSome = true) → decode c (encode c i) = .ok i

/-- Decode and encode agree for every instruction, the acknowledgement frames too, if the ten
opcode parameters are pairwise distinct. (R7 asks that of the seven commands only; where two
coincide the earlier row wins, log entry 3. The operand layout of a HOST request is log entry
2.) -/
def Obligations.DecodeEncodeEveryInstruction : Prop :=
  ∀ (c : Config) (i : Instr), c.allDistinct → i.wf = true → decode c (encode c i) = .ok i

/-- The decoder accepts only encodings: what decodes is well formed and encodes back to the bytes
read, whatever the opcode parameters (operand layout: log entry 2). -/
def Obligations.DecodedBytesAreTheEncoding : Prop :=
  ∀ (c : Config) (bs : List Byte) (i : Instr), decode c bs = .ok i →
    i.wf = true ∧ encode c i = bs

/-- R67 (d): `OPSEL = 15` is reserved and refused; no first byte above it but the sync byte is an
instruction (the selector's byte: log entry 2). The refusal carries this name whatever `BUSY`,
`ERR` and `OPEN` are: the model decodes before it tests a flag, which is log entry 5's choice. -/
def Obligations.ReservedSelectorIsRefused : Prop :=
  ∀ (s : State) (b : Byte) (bs : List Byte),
    runRequest (15 :: bs) s = .refused .reservedSelector ∧
    (15 < b.toNat → b ≠ 0xA5 →
      runRequest (b :: bs) s = .refused (.undecodable .badSelectorByte))

/-- Words written out from R60, R63, R61 and R62 decode to the instructions they stand for, under
`REF` (R8; operand layout: log entry 2; its three acknowledgement opcodes are equal, and the
earlier row, ack-ok, wins: log entry 3). -/
def Obligations.WordsDecodeToTheirInstructions : Prop :=
  decode Config.ref [0xA5, 0x5A, 0xA5, 0x02, 0x21, 0x01, 0x00, 0xC9] =
    .ok (.cmdReadFlashPage 0x21 0x01 0x00) ∧
  decode Config.ref [0xA5, 0x5A, 0xA5, 0x08, 0x00, 0x00, 0x00, 0xAD] = .ok (.ackOk 0 0 0) ∧
  decode Config.ref [0x09, 0x20, 0x01, 0x7F] = .ok (.writeByte 0x2001 0x7F) ∧
  decode Config.ref [0x05, 0x00, 0xFF, 0x00] = .ok (.receive 65280) ∧
  decode Config.ref [0xA5, 0x5A, 0xA5, 0x4B, 0x00, 0x00, 0x00, 0x4B] = .bad .badChecksum

/-! ### The machine -/

/-- A step runs the decoded instruction: when the HOST's next action is to start a request that
decodes to `i`, the step is `exec i`, with nothing around it but that the action is taken off the
HOST's queue. In a program (R68) the lines after it follow if it ended `OK`, and "the first one
that ends with an error ends the program" (R170): what the HOST does next is then what it planned
after the program. A line written with a buffer is the line without it, run with the buffer in
`DBUF` and its length in `DLEN` (R62, R22: "the HOST fills `DBUF` and sets `DLEN` before starting
it"); a buffer beyond 65280 bytes is refused, and while `BUSY = 1` any. A program of no line has
ended. (The HOST's queue is the model's form of the HOST port, log entries 7, 13 and 22; when a
later line's buffer is delivered is log entry 22's choice, and that its refusals come first is log
entry 5's.) -/
def Obligations.StepRunsDecodedInstruction : Prop :=
  ∀ (s : State) (request : List Byte) (more : List ProgramLine) (rest : List HostAct),
    (∀ i, decode s.cfg request = .ok i →
    (s.hostQ = .start request :: rest → step s = exec i { s with hostQ := rest }) ∧
    (s.hostQ = .program (⟨request, none⟩ :: more) :: rest →
      (∀ t, exec i { s with hostQ := rest } = .next t →
        (t.status = .ok → more ≠ [] →
          step s = .next { t with hostQ := .program more :: rest }) ∧
        (t.status = .ok → more = [] → step s = .next { t with hostQ := rest }) ∧
        (t.status ≠ .ok → step s = .next { t with hostQ := rest })) ∧
      ∀ r, exec i { s with hostQ := rest } = .refused r → step s = .refused r)) ∧
    (∀ data, s.hostQ = .program (⟨request, some data⟩ :: more) :: rest →
      (s.busy = false → data.length ≤ 65280 →
        ∃ m, step s = step { s with
            dbuf := m, dlen := BitVec.ofNat 17 data.length
            hostQ := .program (⟨request, none⟩ :: more) :: rest } ∧
          (∀ x (h : x < data.length), m.read? x = some data[x]) ∧
          ∀ x, data.length ≤ x → m.read? x = s.dbuf.read? x) ∧
      (s.busy = false → 65280 < data.length → step s = .refused .operandOutOfRange) ∧
      (s.busy = true → step s = .refused .busy)) ∧
    (s.hostQ = .program [] :: rest → step s = .next { s with hostQ := rest })

/-- R190, R191: engine reset puts every engine register at R25's value, whatever the state,
performs no wire event, and leaves the constants, the MODULE and the pins alone. (`DBUF`
"unspecified": no byte known. The returned value, which the spec gives no register, goes to
nothing: log entry 8.) -/
def Obligations.EngineResetValues : Prop :=
  ∀ (s : State) (rest : List HostAct), s.hostQ = .engineReset :: rest →
    step s = .next { s with
      txf := none, rxf := none, req := none, seq := ⟨.idle, .idle, 0⟩, status := .ok
      err := false, busy := false, isOpen := false, dvalid := false
      maxatt := 500, pollcnt := 0, xcnt := 0, dbuf := [], dlen := 0, hist := []
      result := .nothing, hostQ := rest }

/-- R16, R190: engine reset "is the only thing that clears `ERR`": a step from a state with `ERR =
1` that is no engine reset leaves it 1. -/
def Obligations.OnlyEngineResetClearsErr : Prop :=
  ∀ s t : State, s.err = true → s.hostQ.head? ≠ some .engineReset → step s = .next t →
    t.err = true

/-- R18, R21: no step writes the configuration constants; and every step that is no engine reset
only appends to `HIST`. -/
def Obligations.StepKeepsConstantsAndHistory : Prop :=
  ∀ s t : State, step s = .next t →
    t.cfg = s.cfg ∧ (s.hostQ.head? ≠ some .engineReset → s.hist <+: t.hist)

/-- THE INVARIANT, from every state that meets it: between operations nothing runs (log entry 12),
`DBUF` is in canonical form, `DLEN` and `XCNT` are in range and `XCNT` counts whole chunks, `TXF`
holds only well-formed frames, and every transfer of `HIST` was gated. -/
def Obligations.StepKeepsTheInvariant : Prop :=
  ∀ s t : State, s.Inv → step s = .next t → t.Inv

/-- The invariant holds after reset, and reset's configuration meets what R7 asks of the open
parameters: the seven command opcodes pairwise distinct, `CONFIG_PAGE < INFO_PAGE`. (No step
changes the configuration: StepKeepsConstantsAndHistory.) -/
def Obligations.ResetMeetsTheInvariant : Prop :=
  State.reset.Inv ∧ State.reset.cfg.lawful

/-- R196 and R197, as lists of HOST actions (log entries 7 and 21). Teardown, from any state between
operations, whatever `ERR` is: it closes the transport, leaves PMODE de-asserted and the reset line
low, performs no wire event and cannot fail. Connecting: after PMODE, the reset pulse and the opening
of the transport, the readiness check the HOST chose (D38) runs with PMODE asserted. If it ends `OK`
and does not answer false, ReadSwVersion runs with PMODE de-asserted. If it times out or answers
false, the HOST reports `ModuleNotDetected`, and after teardown it has nothing left to do (R154; that
its plan is then dropped is log entry 23's choice). A check that is refused stops the machine. -/
def Obligations.ConnectAndTeardownSequences : Prop :=
  ∀ (s : State) (check : List Byte) (rest : List HostAct), s.busy = false →
    (s.hostQ = teardownSequence ++ rest →
      Sys2Proof.core.run 5 s = .next { s with
        pmode := false, resetLine := false, isOpen := false, hostQ := rest }) ∧
    (s.hostQ = connectSequence check ++ rest →
      Sys2Proof.core.run 4 s = .next { s with
        pmode := true, resetLine := false, isOpen := true
        hostQ := .confirmReady check :: rest } ∧
      ∀ i : Instr, decode s.cfg check = .ok i →
        (∀ t : State, exec i { s with
            pmode := true, resetLine := false, isOpen := true, hostQ := rest } = .next t →
          (t.status = .ok → t.result ≠ .ready false →
            Sys2Proof.core.run 7 s =
              exec .readSwVersion { t with pmode := false, hostError := none, hostQ := rest }) ∧
          (t.status ≠ .ok ∨ t.result = .ready false →
            Sys2Proof.core.run 5 s = .next { t with
              hostError := some .moduleNotDetected, hostQ := teardownSequence } ∧
            Sys2Proof.core.run 10 s = .next { t with
              pmode := false, resetLine := false, isOpen := false
              hostError := some .moduleNotDetected, hostQ := [] })) ∧
        ∀ r, exec i { s with
            pmode := true, resetLine := false, isOpen := true, hostQ := rest } = .refused r →
          Sys2Proof.core.run 5 s = .refused r)

/-- R17, R22, R23, R26, R129, R161: the HOST's ports. `MAXATT` takes any 16-bit value, and is
read, while idle; `OPEN` is set and cleared while idle; `STATUS` reads as its code, the flags and
counters as they are; `DBUF` reads only while `DVALID = 1`, `TXF` and `RXF` only once written; a
read changes nothing but the value read (which stands in a field of the model's own, log entry 8).
Register writes are refused while `BUSY = 1`; a `MAXATT` of more than 16 bits is refused as
`OperandOutOfRange`; `HIST` can be read (log entry 13). A byte at or beyond `DLEN` faults (log
entry 19). -/
def Obligations.HostPortRules : Prop :=
  (statusCode .ok = 0 ∧ statusCode (.error .checksumMismatch) = 1 ∧
    statusCode (.error .unexpectedResponse) = 2 ∧ statusCode (.error .timeout) = 3 ∧
    statusCode (.error .programSizeMismatch) = 4 ∧ statusCode (.error .selfTestFailure) = 5 ∧
    statusCode (.error .codeProtectVerifyFailure) = 6) ∧
  ∀ (s : State) (v off : Nat) (data : List Byte) (b : Bool) (f : Frame),
    (s.busy = false →
      (v < 65536 → hostStep (.writeMaxatt v) s = .next { s with maxatt := BitVec.ofNat 16 v }) ∧
      (65536 ≤ v → hostStep (.writeMaxatt v) s = .refused .operandOutOfRange) ∧
      hostStep (.read .maxatt) s = .next { s with portValue := .half s.maxatt } ∧
      hostStep (.setOpen b) s = .next { s with isOpen := b }) ∧
    (s.busy = true →
      hostStep (.writeMaxatt v) s = .refused .busy ∧ hostStep (.read .maxatt) s = .refused .busy ∧
      hostStep (.writeDbuf off data) s = .refused .busy ∧
      hostStep (.writeDlen v) s = .refused .busy ∧ hostStep (.setOpen b) s = .refused .busy) ∧
    hostStep (.read .status) s = .next { s with portValue := .status (statusCode s.status) } ∧
    hostStep (.read .err) s = .next { s with portValue := .flag s.err } ∧
    hostStep (.read .busy) s = .next { s with portValue := .flag s.busy } ∧
    hostStep (.read .dvalid) s = .next { s with portValue := .flag s.dvalid } ∧
    hostStep (.read .pollcnt) s = .next { s with portValue := .half s.pollcnt } ∧
    hostStep (.read .xcnt) s = .next { s with portValue := .count s.xcnt } ∧
    hostStep (.read .dlen) s = .next { s with portValue := .count s.dlen } ∧
    hostStep (.read .hist) s = .next { s with portValue := .events s.hist } ∧
    (s.dvalid = false → hostStep (.read .dbuf) s = .refused .bufferInvalid ∧
      hostStep (.read (.dbufByte off)) s = .refused .bufferInvalid) ∧
    (s.dvalid = true →
      hostStep (.read .dbuf) s = .next { s with portValue := .bytes (dbufBytes s s.dlen.toNat) } ∧
      (off < s.dlen.toNat → hostStep (.read (.dbufByte off)) s =
        .next { s with portValue := .bytes [readDbuf s off] }) ∧
      (s.dlen.toNat ≤ off → hostStep (.read (.dbufByte off)) s = .fault (.noSuchDbufByte off))) ∧
    (s.txf = none → hostStep (.read .txf) s = .refused .unwrittenRegister) ∧
    (s.txf = some f → hostStep (.read .txf) s = .next { s with portValue := .frame f }) ∧
    (s.rxf = none → hostStep (.read .rxf) s = .refused .unwrittenRegister) ∧
    (s.rxf = some f → hostStep (.read .rxf) s = .next { s with portValue := .frame f })

/-- R22: the HOST fills `DBUF` and sets `DLEN`, 0 to 65280, before it starts a transmitting
operation. Bytes written inside the capacity read back, every other byte is as before, and nothing
else changes (`DVALID` too: the model's reading, log entry 14). Data beyond the capacity and a
greater `DLEN` are refused as `OperandOutOfRange` (log entry 13). -/
def Obligations.HostFillsTheBuffer : Prop :=
  ∀ (s : State) (off n : Nat) (data : List Byte), s.busy = false →
    (off + data.length ≤ 65280 →
      ∃ m, hostStep (.writeDbuf off data) s = .next { s with dbuf := m } ∧
        (∀ x (h : x < data.length), m.read? (off + x) = some data[x]) ∧
        ∀ x, x < off ∨ off + data.length ≤ x → m.read? x = s.dbuf.read? x) ∧
    (65280 < off + data.length → hostStep (.writeDbuf off data) s = .refused .operandOutOfRange) ∧
    (n ≤ 65280 → hostStep (.writeDlen n) s = .next { s with dlen := BitVec.ofNat 17 n }) ∧
    (65280 < n → hostStep (.writeDlen n) s = .refused .operandOutOfRange)

/-- R143: Merge takes the override's value at every offset it defines, the old value elsewhere,
and an empty override is the identity. Offsets are those of the old image (R141: 256 bytes); beyond
it the result has no byte. (That an override is a list of offset and byte pairs of which the first
counts is log entry 21's choice.) -/
def Obligations.MergeReplacesOnOverlap : Prop :=
  (∀ (old : List Byte) (override : List (Nat × Byte)) (i : Nat),
    (mergeImage old override)[i]? =
      old[i]?.map fun b => (override.lookup i).getD b) ∧
  ∀ old : List Byte, mergeImage old [] = old
end

