-- ==== Sys2Proof/Laws/Decode.lean ====
section
/-! SUPPORT. The small lemmas of the codec and the decoder: the frame BuildCommand builds, its checksum,
its validation, and the byte order of wide operands. -/

namespace Sys2Proof

/-- The checksum, modulo 256 as byte addition. -/
theorem checksumOf_eq (f : Frame) :
    checksumOf f = f.sync2 + f.opcode + f.arg0 + f.arg1 + f.arg2 := by
  apply BitVec.eq_of_toNat_eq
  simp only [checksumOf, Frame.bytes, Config.cksumFirst, Config.cksumLast, BitVec.toNat_add,
    BitVec.toNat_ofNat, List.drop_succ_cons, List.drop_zero, List.take_succ_cons, List.take_zero,
    List.map_cons, List.map_nil, List.sum_cons, List.sum_nil]
  omega

/-- The built frame, byte by byte. -/
theorem buildFrame_eq (o : Byte) (a : Args) :
    buildFrame o a = ⟨Config.sync0, Config.sync1, Config.sync2, o, a.arg0, a.arg1, a.arg2,
      Config.sync2 + o + a.arg0 + a.arg1 + a.arg2⟩ := by
  simp only [buildFrame, checksumOf_eq]

@[simp] theorem buildFrame_opcode (o : Byte) (a : Args) : (buildFrame o a).opcode = o := rfl
@[simp] theorem buildFrame_arg0 (o : Byte) (a : Args) : (buildFrame o a).arg0 = a.arg0 := rfl
@[simp] theorem buildFrame_arg1 (o : Byte) (a : Args) : (buildFrame o a).arg1 = a.arg1 := rfl
@[simp] theorem buildFrame_arg2 (o : Byte) (a : Args) : (buildFrame o a).arg2 = a.arg2 := rfl
@[simp] theorem syncOk_buildFrame (o : Byte) (a : Args) : syncOk (buildFrame o a) = true := rfl
@[simp] theorem checksum_buildFrame (o : Byte) (a : Args) :
    (buildFrame o a).checksum = checksumOf (buildFrame o a) := rfl

/-- A built frame is well formed. -/
@[simp] theorem frameOk_buildFrame (o : Byte) (a : Args) : frameOk (buildFrame o a) = true := by
  simp [frameOk]

/-- A well-formed frame is the one built from its opcode and arguments. -/
theorem buildFrame_of_frameOk {f : Frame} (h : frameOk f = true) :
    buildFrame f.opcode ⟨f.arg0, f.arg1, f.arg2⟩ = f := by
  simp only [frameOk, syncOk, Bool.and_eq_true, beq_iff_eq, checksumOf_eq] at h
  obtain ⟨⟨⟨h0, h1⟩, h2⟩, hc⟩ := h
  rw [buildFrame_eq, ← h0, ← h1, ← h2, ← hc]

/-- The bytes of a built frame are judged by its opcode alone. -/
theorem decode_buildFrame (c : Config) (o : Byte) (a : Args) :
    decode c (buildFrame o a).bytes = decodeOpcode c (buildFrame o a) := by
  have h : decode c (buildFrame o a).bytes = decodeFrame c (buildFrame o a) := rfl
  rw [h, decodeFrame]
  simp

/-! ### Wide operands, high byte first -/

theorem Byte.eq_ofNat {b : Byte} {n : Nat} (h : n % 256 = b.toNat) : BitVec.ofNat 8 n = b :=
  BitVec.eq_of_toNat_eq (by simpa using h)

theorem bytes16_nat16 (hi lo : Byte) : bytes16 (nat16 hi lo) = [hi, lo] := by
  have := hi.isLt
  have := lo.isLt
  simp only [bytes16, nat16]
  rw [Byte.eq_ofNat (b := hi) (by omega), Byte.eq_ofNat (b := lo) (by omega)]

theorem bytes24_nat24 (top hi lo : Byte) : bytes24 (nat24 top hi lo) = [top, hi, lo] := by
  have := top.isLt
  have := hi.isLt
  have := lo.isLt
  simp only [bytes24, nat24]
  rw [Byte.eq_ofNat (b := top) (by omega), Byte.eq_ofNat (b := hi) (by omega),
    Byte.eq_ofNat (b := lo) (by omega)]

theorem nat16_bytes {n : Nat} (h : n < 2 ^ 16) :
    nat16 (BitVec.ofNat 8 (n / 256)) (BitVec.ofNat 8 n) = n := by
  simp only [nat16, BitVec.toNat_ofNat]; omega

theorem nat24_bytes {n : Nat} (h : n < 2 ^ 24) :
    nat24 (BitVec.ofNat 8 (n / 65536)) (BitVec.ofNat 8 (n / 256)) (BitVec.ofNat 8 n) = n := by
  simp only [nat24, BitVec.toNat_ofNat]; omega

theorem nat16_lt (hi lo : Byte) : nat16 hi lo < 2 ^ 16 := by
  have := hi.isLt
  have := lo.isLt
  simp only [nat16]; omega

theorem nat24_lt {top : Byte} (hi lo : Byte) (h : top.toNat < 2) : nat24 top hi lo < 2 ^ 17 := by
  have := hi.isLt
  have := lo.isLt
  simp only [nat24]; omega

/-- A frame validates against an opcode exactly if it is well formed and carries that opcode. -/
theorem Machine.validate_eq_none_iff (f : Frame) (e : Byte) :
    Machine.validate f e = none ↔ frameOk f = true ∧ f.opcode = e := by
  unfold Machine.validate frameOk
  by_cases h1 : f.checksum = checksumOf f <;> cases h2 : syncOk f <;>
    by_cases h3 : f.opcode = e <;> simp [h1, h3]

/-- A frame that fails validation fails it as a checksum or as a response. -/
theorem Machine.validate_some_cases {f : Frame} {e : Byte} {er : Machine.EngineError}
    (h : Machine.validate f e = some er) : er = .checksumMismatch ∨ er = .unexpectedResponse := by
  unfold Machine.validate at h
  repeat' split at h
  all_goals first
    | (obtain rfl := Option.some.inj h; simp)
    | cases h

end Sys2Proof
end

