-- ==== Sys2Proof/Laws/Memory.lean ====
section
/-! SUPPORT. The payload buffer's storage: read after write, what a write leaves, and that every write
keeps the canonical form. -/

namespace Sys2Proof.Machine

@[simp] theorem Memory.read?_nil (x : Nat) : Memory.read? [] x = none := rfl

theorem Memory.read?_cons (a : Nat) (b : Byte) (m : Memory) (x : Nat) :
    Memory.read? ((a, b) :: m) x = if x = a then some b else m.read? x := rfl

/-- A read at the written offset gives the written byte. -/
@[simp] theorem Memory.read?_write_same (m : Memory) (x : Nat) (v : Byte) :
    (m.write x v).read? x = some v := by
  induction m with
  | nil => simp [Memory.write, Memory.read?_cons]
  | cons e m ih =>
    obtain ⟨a, b⟩ := e
    simp only [Memory.write]
    split
    · simp [Memory.read?_cons]
    · split
      · simp [Memory.read?_cons]
      · simp [Memory.read?_cons, *]

/-- A write leaves every other offset alone. -/
theorem Memory.read?_write_other (m : Memory) {x y : Nat} (v : Byte) (h : y ≠ x) :
    (m.write x v).read? y = m.read? y := by
  induction m with
  | nil => simp [Memory.write, Memory.read?_cons, h]
  | cons e m ih =>
    obtain ⟨a, b⟩ := e
    simp only [Memory.write]
    split
    · simp [Memory.read?_cons, h]
    · split
      · next hx => subst hx; simp [Memory.read?_cons, h]
      · simp [Memory.read?_cons, ih]

theorem Memory.read?_writeBytes_below (vs : List Byte) (m : Memory) (x y : Nat) (h : y < x) :
    (m.writeBytes x vs).read? y = m.read? y := by
  induction vs generalizing m x with
  | nil => rfl
  | cons v vs ih =>
    simp only [Memory.writeBytes]
    rw [ih _ _ (by omega), Memory.read?_write_other _ _ (by omega)]

/-- Bytes written at rising offsets read back. -/
theorem Memory.read?_writeBytes_inside (vs : List Byte) (m : Memory) (x i : Nat)
    (h : i < vs.length) : (m.writeBytes x vs).read? (x + i) = some vs[i] := by
  induction vs generalizing m x i with
  | nil => simp at h
  | cons v vs ih =>
    simp only [Memory.writeBytes]
    cases i with
    | zero => rw [Memory.read?_writeBytes_below _ _ _ _ (by omega)]; simp
    | succ i =>
      have := ih (m.write x v) (x + 1) i (by simpa using h)
      rw [show x + (i + 1) = x + 1 + i by omega, this]; simp

/-- Bytes written at rising offsets leave every offset outside them alone. -/
theorem Memory.read?_writeBytes_outside (vs : List Byte) (m : Memory) (x y : Nat)
    (h : y < x ∨ x + vs.length ≤ y) : (m.writeBytes x vs).read? y = m.read? y := by
  induction vs generalizing m x with
  | nil => rfl
  | cons v vs ih =>
    simp only [Memory.writeBytes, List.length_cons] at *
    rw [ih _ _ (by omega), Memory.read?_write_other _ _ (by omega)]

/-- Writing two runs of bytes one after the other is writing both at once. -/
theorem Memory.writeBytes_append (vs ws : List Byte) (m : Memory) (x : Nat) :
    m.writeBytes x (vs ++ ws) = (m.writeBytes x vs).writeBytes (x + vs.length) ws := by
  induction vs generalizing m x with
  | nil => simp [Memory.writeBytes]
  | cons v vs ih =>
    simp only [List.cons_append, Memory.writeBytes, ih, List.length_cons]
    congr 1; omega

theorem Memory.risingFrom_write (m : Memory) (lo x : Nat) (v : Byte)
    (h : m.risingFrom lo = true) (hx : lo ≤ x) : (m.write x v).risingFrom lo = true := by
  induction m generalizing lo with
  | nil => simpa [Memory.write, Memory.risingFrom] using hx
  | cons e m ih =>
    obtain ⟨a, b⟩ := e
    simp only [Memory.risingFrom, Bool.and_eq_true, decide_eq_true_eq] at h
    simp only [Memory.write]
    split
    · next hlt =>
      simp only [Memory.risingFrom, Bool.and_eq_true, decide_eq_true_eq]
      exact ⟨hx, by omega, h.2⟩
    · split
      · next hxa => subst hxa; simp [Memory.risingFrom, h.2, hx]
      · simp only [Memory.risingFrom, Bool.and_eq_true, decide_eq_true_eq]
        exact ⟨h.1, ih _ h.2 (by omega)⟩

theorem Memory.all_lt_write (m : Memory) (x n : Nat) (v : Byte)
    (h : (m.all fun e => decide (e.1 < n)) = true) (hx : x < n) :
    ((m.write x v).all fun e => decide (e.1 < n)) = true := by
  induction m with
  | nil => simpa [Memory.write] using hx
  | cons e m ih =>
    obtain ⟨a, b⟩ := e
    simp only [List.all_cons, Bool.and_eq_true] at h
    simp only [Memory.write]
    split
    · simpa [hx] using h
    · split
      · simpa [hx] using h.2
      · simpa using ⟨by simpa using h.1, by simpa using ih h.2⟩

/-- A write inside the capacity keeps the canonical form. -/
theorem Memory.wf_write (m : Memory) (x : Nat) (v : Byte) (h : m.wf = true)
    (hx : x < Config.dbufCapacity) : (m.write x v).wf = true := by
  simp only [Memory.wf, Bool.and_eq_true] at *
  exact ⟨Memory.risingFrom_write _ _ _ _ h.1 (by omega), Memory.all_lt_write _ _ _ _ h.2 hx⟩

/-- Writes inside the capacity keep the canonical form. -/
theorem Memory.wf_writeBytes (vs : List Byte) (m : Memory) (x : Nat) (h : m.wf = true)
    (hx : x + vs.length ≤ Config.dbufCapacity) : (m.writeBytes x vs).wf = true := by
  induction vs generalizing m x with
  | nil => exact h
  | cons v vs ih =>
    simp only [List.length_cons] at hx
    exact ih _ _ (Memory.wf_write _ _ _ h (by omega)) (by omega)

/-- The empty storage is in canonical form. -/
@[simp] theorem Memory.wf_nil : Memory.wf [] = true := rfl

/-- The storage after reset is in canonical form. -/
theorem State.reset_dbuf_wf : State.reset.dbuf.wf = true := rfl

@[simp] theorem dbufBytes_length (s : State) (n : Nat) : (dbufBytes s n).length = n := by
  simp [dbufBytes]

/-- Reading a known byte of `DBUF`. -/
theorem readDbuf_of_read? (s : State) (x : Nat) (v : Byte) (h : s.dbuf.read? x = some v) :
    readDbuf s x = v := by simp [readDbuf, h]

end Sys2Proof.Machine
end

