-- ==== Sys2Proof/Laws/State.lean ====
section
/-! SUPPORT. One lemma per field per register update, and for the wire events: what each changes and
what it leaves. Later proofs rewrite with these and never unfold an update. -/

namespace Sys2Proof.Machine

variable (s : State)

/-! ### setPhase -/
@[simp] theorem setPhase_cfg (p : Phase) : (setPhase p s).cfg = s.cfg := rfl
@[simp] theorem setPhase_txf (p : Phase) : (setPhase p s).txf = s.txf := rfl
@[simp] theorem setPhase_rxf (p : Phase) : (setPhase p s).rxf = s.rxf := rfl
@[simp] theorem setPhase_req (p : Phase) : (setPhase p s).req = s.req := rfl
@[simp] theorem setPhase_seq (p : Phase) : (setPhase p s).seq = { s.seq with phase := p } := rfl
@[simp] theorem setPhase_status (p : Phase) : (setPhase p s).status = s.status := rfl
@[simp] theorem setPhase_err (p : Phase) : (setPhase p s).err = s.err := rfl
@[simp] theorem setPhase_busy (p : Phase) : (setPhase p s).busy = s.busy := rfl
@[simp] theorem setPhase_isOpen (p : Phase) : (setPhase p s).isOpen = s.isOpen := rfl
@[simp] theorem setPhase_dvalid (p : Phase) : (setPhase p s).dvalid = s.dvalid := rfl
@[simp] theorem setPhase_maxatt (p : Phase) : (setPhase p s).maxatt = s.maxatt := rfl
@[simp] theorem setPhase_pollcnt (p : Phase) : (setPhase p s).pollcnt = s.pollcnt := rfl
@[simp] theorem setPhase_xcnt (p : Phase) : (setPhase p s).xcnt = s.xcnt := rfl
@[simp] theorem setPhase_dbuf (p : Phase) : (setPhase p s).dbuf = s.dbuf := rfl
@[simp] theorem setPhase_dlen (p : Phase) : (setPhase p s).dlen = s.dlen := rfl
@[simp] theorem setPhase_hist (p : Phase) : (setPhase p s).hist = s.hist := rfl
@[simp] theorem setPhase_result (p : Phase) : (setPhase p s).result = s.result := rfl
@[simp] theorem setPhase_portValue (p : Phase) : (setPhase p s).portValue = s.portValue := rfl
@[simp] theorem setPhase_hostQ (p : Phase) : (setPhase p s).hostQ = s.hostQ := rfl
@[simp] theorem setPhase_pmode (p : Phase) : (setPhase p s).pmode = s.pmode := rfl
@[simp] theorem setPhase_resetLine (p : Phase) : (setPhase p s).resetLine = s.resetLine := rfl
@[simp] theorem setPhase_hostError (p : Phase) : (setPhase p s).hostError = s.hostError := rfl
@[simp] theorem setPhase_readyIn (p : Phase) : (setPhase p s).readyIn = s.readyIn := rfl
@[simp] theorem setPhase_linkIn (p : Phase) : (setPhase p s).linkIn = s.linkIn := rfl
@[simp] theorem setPhase_draws (p : Phase) : (setPhase p s).draws = s.draws := rfl

/-! ### fillBuffer -/
@[simp] theorem fillBuffer_cfg (d : List Byte) : (fillBuffer d s).cfg = s.cfg := rfl
@[simp] theorem fillBuffer_txf (d : List Byte) : (fillBuffer d s).txf = s.txf := rfl
@[simp] theorem fillBuffer_rxf (d : List Byte) : (fillBuffer d s).rxf = s.rxf := rfl
@[simp] theorem fillBuffer_req (d : List Byte) : (fillBuffer d s).req = s.req := rfl
@[simp] theorem fillBuffer_seq (d : List Byte) : (fillBuffer d s).seq = s.seq := rfl
@[simp] theorem fillBuffer_status (d : List Byte) : (fillBuffer d s).status = s.status := rfl
@[simp] theorem fillBuffer_err (d : List Byte) : (fillBuffer d s).err = s.err := rfl
@[simp] theorem fillBuffer_busy (d : List Byte) : (fillBuffer d s).busy = s.busy := rfl
@[simp] theorem fillBuffer_isOpen (d : List Byte) : (fillBuffer d s).isOpen = s.isOpen := rfl
@[simp] theorem fillBuffer_dvalid (d : List Byte) : (fillBuffer d s).dvalid = s.dvalid := rfl
@[simp] theorem fillBuffer_maxatt (d : List Byte) : (fillBuffer d s).maxatt = s.maxatt := rfl
@[simp] theorem fillBuffer_pollcnt (d : List Byte) : (fillBuffer d s).pollcnt = s.pollcnt := rfl
@[simp] theorem fillBuffer_xcnt (d : List Byte) : (fillBuffer d s).xcnt = s.xcnt := rfl
@[simp] theorem fillBuffer_dbuf (d : List Byte) : (fillBuffer d s).dbuf = s.dbuf.writeBytes 0 d := rfl
@[simp] theorem fillBuffer_dlen (d : List Byte) : (fillBuffer d s).dlen = BitVec.ofNat 17 d.length := rfl
@[simp] theorem fillBuffer_hist (d : List Byte) : (fillBuffer d s).hist = s.hist := rfl
@[simp] theorem fillBuffer_result (d : List Byte) : (fillBuffer d s).result = s.result := rfl
@[simp] theorem fillBuffer_portValue (d : List Byte) : (fillBuffer d s).portValue = s.portValue := rfl
@[simp] theorem fillBuffer_hostQ (d : List Byte) : (fillBuffer d s).hostQ = s.hostQ := rfl
@[simp] theorem fillBuffer_pmode (d : List Byte) : (fillBuffer d s).pmode = s.pmode := rfl
@[simp] theorem fillBuffer_resetLine (d : List Byte) : (fillBuffer d s).resetLine = s.resetLine := rfl
@[simp] theorem fillBuffer_hostError (d : List Byte) : (fillBuffer d s).hostError = s.hostError := rfl
@[simp] theorem fillBuffer_readyIn (d : List Byte) : (fillBuffer d s).readyIn = s.readyIn := rfl
@[simp] theorem fillBuffer_linkIn (d : List Byte) : (fillBuffer d s).linkIn = s.linkIn := rfl
@[simp] theorem fillBuffer_draws (d : List Byte) : (fillBuffer d s).draws = s.draws := rfl

/-! ### startTransfer -/
@[simp] theorem startTransfer_cfg : (startTransfer s).cfg = s.cfg := rfl
@[simp] theorem startTransfer_txf : (startTransfer s).txf = s.txf := rfl
@[simp] theorem startTransfer_rxf : (startTransfer s).rxf = s.rxf := rfl
@[simp] theorem startTransfer_req : (startTransfer s).req = s.req := rfl
@[simp] theorem startTransfer_seq : (startTransfer s).seq = { s.seq with off := 0 } := rfl
@[simp] theorem startTransfer_status : (startTransfer s).status = s.status := rfl
@[simp] theorem startTransfer_err : (startTransfer s).err = s.err := rfl
@[simp] theorem startTransfer_busy : (startTransfer s).busy = s.busy := rfl
@[simp] theorem startTransfer_isOpen : (startTransfer s).isOpen = s.isOpen := rfl
@[simp] theorem startTransfer_dvalid : (startTransfer s).dvalid = s.dvalid := rfl
@[simp] theorem startTransfer_maxatt : (startTransfer s).maxatt = s.maxatt := rfl
@[simp] theorem startTransfer_pollcnt : (startTransfer s).pollcnt = s.pollcnt := rfl
@[simp] theorem startTransfer_xcnt : (startTransfer s).xcnt = 0 := rfl
@[simp] theorem startTransfer_dbuf : (startTransfer s).dbuf = s.dbuf := rfl
@[simp] theorem startTransfer_dlen : (startTransfer s).dlen = s.dlen := rfl
@[simp] theorem startTransfer_hist : (startTransfer s).hist = s.hist := rfl
@[simp] theorem startTransfer_result : (startTransfer s).result = s.result := rfl
@[simp] theorem startTransfer_portValue : (startTransfer s).portValue = s.portValue := rfl
@[simp] theorem startTransfer_hostQ : (startTransfer s).hostQ = s.hostQ := rfl
@[simp] theorem startTransfer_pmode : (startTransfer s).pmode = s.pmode := rfl
@[simp] theorem startTransfer_resetLine : (startTransfer s).resetLine = s.resetLine := rfl
@[simp] theorem startTransfer_hostError : (startTransfer s).hostError = s.hostError := rfl
@[simp] theorem startTransfer_readyIn : (startTransfer s).readyIn = s.readyIn := rfl
@[simp] theorem startTransfer_linkIn : (startTransfer s).linkIn = s.linkIn := rfl
@[simp] theorem startTransfer_draws : (startTransfer s).draws = s.draws := rfl

/-! ### advance -/
@[simp] theorem advance_cfg : (advance s).cfg = s.cfg := rfl
@[simp] theorem advance_txf : (advance s).txf = s.txf := rfl
@[simp] theorem advance_rxf : (advance s).rxf = s.rxf := rfl
@[simp] theorem advance_req : (advance s).req = s.req := rfl
@[simp] theorem advance_seq : (advance s).seq = { s.seq with off := s.seq.off + 4 } := rfl
@[simp] theorem advance_status : (advance s).status = s.status := rfl
@[simp] theorem advance_err : (advance s).err = s.err := rfl
@[simp] theorem advance_busy : (advance s).busy = s.busy := rfl
@[simp] theorem advance_isOpen : (advance s).isOpen = s.isOpen := rfl
@[simp] theorem advance_dvalid : (advance s).dvalid = s.dvalid := rfl
@[simp] theorem advance_maxatt : (advance s).maxatt = s.maxatt := rfl
@[simp] theorem advance_pollcnt : (advance s).pollcnt = s.pollcnt := rfl
@[simp] theorem advance_xcnt : (advance s).xcnt = s.xcnt + 4 := rfl
@[simp] theorem advance_dbuf : (advance s).dbuf = s.dbuf := rfl
@[simp] theorem advance_dlen : (advance s).dlen = s.dlen := rfl
@[simp] theorem advance_hist : (advance s).hist = s.hist := rfl
@[simp] theorem advance_result : (advance s).result = s.result := rfl
@[simp] theorem advance_portValue : (advance s).portValue = s.portValue := rfl
@[simp] theorem advance_hostQ : (advance s).hostQ = s.hostQ := rfl
@[simp] theorem advance_pmode : (advance s).pmode = s.pmode := rfl
@[simp] theorem advance_resetLine : (advance s).resetLine = s.resetLine := rfl
@[simp] theorem advance_hostError : (advance s).hostError = s.hostError := rfl
@[simp] theorem advance_readyIn : (advance s).readyIn = s.readyIn := rfl
@[simp] theorem advance_linkIn : (advance s).linkIn = s.linkIn := rfl
@[simp] theorem advance_draws : (advance s).draws = s.draws := rfl

/-! ### record -/
@[simp] theorem record_cfg (e : Event) : (record e s).cfg = s.cfg := rfl
@[simp] theorem record_txf (e : Event) : (record e s).txf = s.txf := rfl
@[simp] theorem record_rxf (e : Event) : (record e s).rxf = s.rxf := rfl
@[simp] theorem record_req (e : Event) : (record e s).req = s.req := rfl
@[simp] theorem record_seq (e : Event) : (record e s).seq = s.seq := rfl
@[simp] theorem record_status (e : Event) : (record e s).status = s.status := rfl
@[simp] theorem record_err (e : Event) : (record e s).err = s.err := rfl
@[simp] theorem record_busy (e : Event) : (record e s).busy = s.busy := rfl
@[simp] theorem record_isOpen (e : Event) : (record e s).isOpen = s.isOpen := rfl
@[simp] theorem record_dvalid (e : Event) : (record e s).dvalid = s.dvalid := rfl
@[simp] theorem record_maxatt (e : Event) : (record e s).maxatt = s.maxatt := rfl
@[simp] theorem record_pollcnt (e : Event) : (record e s).pollcnt = s.pollcnt := rfl
@[simp] theorem record_xcnt (e : Event) : (record e s).xcnt = s.xcnt := rfl
@[simp] theorem record_dbuf (e : Event) : (record e s).dbuf = s.dbuf := rfl
@[simp] theorem record_dlen (e : Event) : (record e s).dlen = s.dlen := rfl
@[simp] theorem record_hist (e : Event) : (record e s).hist = s.hist ++ [e] := rfl
@[simp] theorem record_result (e : Event) : (record e s).result = s.result := rfl
@[simp] theorem record_portValue (e : Event) : (record e s).portValue = s.portValue := rfl
@[simp] theorem record_hostQ (e : Event) : (record e s).hostQ = s.hostQ := rfl
@[simp] theorem record_pmode (e : Event) : (record e s).pmode = s.pmode := rfl
@[simp] theorem record_resetLine (e : Event) : (record e s).resetLine = s.resetLine := rfl
@[simp] theorem record_hostError (e : Event) : (record e s).hostError = s.hostError := rfl
@[simp] theorem record_readyIn (e : Event) : (record e s).readyIn = s.readyIn := rfl
@[simp] theorem record_linkIn (e : Event) : (record e s).linkIn = s.linkIn := rfl
@[simp] theorem record_draws (e : Event) : (record e s).draws = s.draws := rfl

/-! ### beginOp -/
@[simp] theorem beginOp_cfg (op : OpName) (r : Request) : (beginOp op r s).cfg = s.cfg := rfl
@[simp] theorem beginOp_txf (op : OpName) (r : Request) : (beginOp op r s).txf = s.txf := rfl
@[simp] theorem beginOp_rxf (op : OpName) (r : Request) : (beginOp op r s).rxf = s.rxf := rfl
@[simp] theorem beginOp_req (op : OpName) (r : Request) : (beginOp op r s).req = some r := rfl
@[simp] theorem beginOp_seq (op : OpName) (r : Request) : (beginOp op r s).seq = ⟨op, .check, 0⟩ := rfl
@[simp] theorem beginOp_status (op : OpName) (r : Request) : (beginOp op r s).status = s.status := rfl
@[simp] theorem beginOp_err (op : OpName) (r : Request) : (beginOp op r s).err = s.err := rfl
@[simp] theorem beginOp_busy (op : OpName) (r : Request) : (beginOp op r s).busy = true := rfl
@[simp] theorem beginOp_isOpen (op : OpName) (r : Request) : (beginOp op r s).isOpen = s.isOpen := rfl
@[simp] theorem beginOp_dvalid (op : OpName) (r : Request) : (beginOp op r s).dvalid = s.dvalid := rfl
@[simp] theorem beginOp_maxatt (op : OpName) (r : Request) : (beginOp op r s).maxatt = s.maxatt := rfl
@[simp] theorem beginOp_pollcnt (op : OpName) (r : Request) : (beginOp op r s).pollcnt = s.pollcnt := rfl
@[simp] theorem beginOp_xcnt (op : OpName) (r : Request) : (beginOp op r s).xcnt = s.xcnt := rfl
@[simp] theorem beginOp_dbuf (op : OpName) (r : Request) : (beginOp op r s).dbuf = s.dbuf := rfl
@[simp] theorem beginOp_dlen (op : OpName) (r : Request) : (beginOp op r s).dlen = s.dlen := rfl
@[simp] theorem beginOp_hist (op : OpName) (r : Request) : (beginOp op r s).hist = s.hist := rfl
@[simp] theorem beginOp_result (op : OpName) (r : Request) : (beginOp op r s).result = s.result := rfl
@[simp] theorem beginOp_portValue (op : OpName) (r : Request) : (beginOp op r s).portValue = s.portValue := rfl
@[simp] theorem beginOp_hostQ (op : OpName) (r : Request) : (beginOp op r s).hostQ = s.hostQ := rfl
@[simp] theorem beginOp_pmode (op : OpName) (r : Request) : (beginOp op r s).pmode = s.pmode := rfl
@[simp] theorem beginOp_resetLine (op : OpName) (r : Request) : (beginOp op r s).resetLine = s.resetLine := rfl
@[simp] theorem beginOp_hostError (op : OpName) (r : Request) : (beginOp op r s).hostError = s.hostError := rfl
@[simp] theorem beginOp_readyIn (op : OpName) (r : Request) : (beginOp op r s).readyIn = s.readyIn := rfl
@[simp] theorem beginOp_linkIn (op : OpName) (r : Request) : (beginOp op r s).linkIn = s.linkIn := rfl
@[simp] theorem beginOp_draws (op : OpName) (r : Request) : (beginOp op r s).draws = s.draws := rfl

/-! ### beginFrame -/
@[simp] theorem beginFrame_cfg (op : OpName) : (beginFrame op s).cfg = s.cfg := rfl
@[simp] theorem beginFrame_txf (op : OpName) : (beginFrame op s).txf = s.txf := rfl
@[simp] theorem beginFrame_rxf (op : OpName) : (beginFrame op s).rxf = s.rxf := rfl
@[simp] theorem beginFrame_req (op : OpName) : (beginFrame op s).req = s.req := rfl
@[simp] theorem beginFrame_seq (op : OpName) : (beginFrame op s).seq = ⟨op, .check, 0⟩ := rfl
@[simp] theorem beginFrame_status (op : OpName) : (beginFrame op s).status = s.status := rfl
@[simp] theorem beginFrame_err (op : OpName) : (beginFrame op s).err = s.err := rfl
@[simp] theorem beginFrame_busy (op : OpName) : (beginFrame op s).busy = true := rfl
@[simp] theorem beginFrame_isOpen (op : OpName) : (beginFrame op s).isOpen = s.isOpen := rfl
@[simp] theorem beginFrame_dvalid (op : OpName) : (beginFrame op s).dvalid = s.dvalid := rfl
@[simp] theorem beginFrame_maxatt (op : OpName) : (beginFrame op s).maxatt = s.maxatt := rfl
@[simp] theorem beginFrame_pollcnt (op : OpName) : (beginFrame op s).pollcnt = s.pollcnt := rfl
@[simp] theorem beginFrame_xcnt (op : OpName) : (beginFrame op s).xcnt = s.xcnt := rfl
@[simp] theorem beginFrame_dbuf (op : OpName) : (beginFrame op s).dbuf = s.dbuf := rfl
@[simp] theorem beginFrame_dlen (op : OpName) : (beginFrame op s).dlen = s.dlen := rfl
@[simp] theorem beginFrame_hist (op : OpName) : (beginFrame op s).hist = s.hist := rfl
@[simp] theorem beginFrame_result (op : OpName) : (beginFrame op s).result = s.result := rfl
@[simp] theorem beginFrame_portValue (op : OpName) : (beginFrame op s).portValue = s.portValue := rfl
@[simp] theorem beginFrame_hostQ (op : OpName) : (beginFrame op s).hostQ = s.hostQ := rfl
@[simp] theorem beginFrame_pmode (op : OpName) : (beginFrame op s).pmode = s.pmode := rfl
@[simp] theorem beginFrame_resetLine (op : OpName) : (beginFrame op s).resetLine = s.resetLine := rfl
@[simp] theorem beginFrame_hostError (op : OpName) : (beginFrame op s).hostError = s.hostError := rfl
@[simp] theorem beginFrame_readyIn (op : OpName) : (beginFrame op s).readyIn = s.readyIn := rfl
@[simp] theorem beginFrame_linkIn (op : OpName) : (beginFrame op s).linkIn = s.linkIn := rfl
@[simp] theorem beginFrame_draws (op : OpName) : (beginFrame op s).draws = s.draws := rfl

/-! ### abandonRead -/
@[simp] theorem abandonRead_cfg : (abandonRead s).cfg = s.cfg := rfl
@[simp] theorem abandonRead_txf : (abandonRead s).txf = s.txf := rfl
@[simp] theorem abandonRead_rxf : (abandonRead s).rxf = s.rxf := rfl
@[simp] theorem abandonRead_req : (abandonRead s).req = s.req := rfl
@[simp] theorem abandonRead_seq : (abandonRead s).seq = s.seq := rfl
@[simp] theorem abandonRead_status : (abandonRead s).status = s.status := rfl
@[simp] theorem abandonRead_err : (abandonRead s).err = s.err := rfl
@[simp] theorem abandonRead_busy : (abandonRead s).busy = s.busy := rfl
@[simp] theorem abandonRead_isOpen : (abandonRead s).isOpen = s.isOpen := rfl
@[simp] theorem abandonRead_dvalid : (abandonRead s).dvalid = false := rfl
@[simp] theorem abandonRead_maxatt : (abandonRead s).maxatt = s.maxatt := rfl
@[simp] theorem abandonRead_pollcnt : (abandonRead s).pollcnt = s.pollcnt := rfl
@[simp] theorem abandonRead_xcnt : (abandonRead s).xcnt = s.xcnt := rfl
@[simp] theorem abandonRead_dbuf : (abandonRead s).dbuf = [] := rfl
@[simp] theorem abandonRead_dlen : (abandonRead s).dlen = s.dlen := rfl
@[simp] theorem abandonRead_hist : (abandonRead s).hist = s.hist := rfl
@[simp] theorem abandonRead_result : (abandonRead s).result = s.result := rfl
@[simp] theorem abandonRead_portValue : (abandonRead s).portValue = s.portValue := rfl
@[simp] theorem abandonRead_hostQ : (abandonRead s).hostQ = s.hostQ := rfl
@[simp] theorem abandonRead_pmode : (abandonRead s).pmode = s.pmode := rfl
@[simp] theorem abandonRead_resetLine : (abandonRead s).resetLine = s.resetLine := rfl
@[simp] theorem abandonRead_hostError : (abandonRead s).hostError = s.hostError := rfl
@[simp] theorem abandonRead_readyIn : (abandonRead s).readyIn = s.readyIn := rfl
@[simp] theorem abandonRead_linkIn : (abandonRead s).linkIn = s.linkIn := rfl
@[simp] theorem abandonRead_draws : (abandonRead s).draws = s.draws := rfl

/-! ### raiseError -/
@[simp] theorem raiseError_cfg (e : EngineError) : (raiseError e s).cfg = s.cfg := rfl
@[simp] theorem raiseError_txf (e : EngineError) : (raiseError e s).txf = s.txf := rfl
@[simp] theorem raiseError_rxf (e : EngineError) : (raiseError e s).rxf = s.rxf := rfl
@[simp] theorem raiseError_req (e : EngineError) : (raiseError e s).req = s.req := rfl
@[simp] theorem raiseError_seq (e : EngineError) : (raiseError e s).seq = SeqPos.idle := rfl
@[simp] theorem raiseError_status (e : EngineError) : (raiseError e s).status = .error e := rfl
@[simp] theorem raiseError_err (e : EngineError) : (raiseError e s).err = true := rfl
@[simp] theorem raiseError_busy (e : EngineError) : (raiseError e s).busy = false := rfl
@[simp] theorem raiseError_isOpen (e : EngineError) : (raiseError e s).isOpen = s.isOpen := rfl
@[simp] theorem raiseError_dvalid (e : EngineError) : (raiseError e s).dvalid = s.dvalid := rfl
@[simp] theorem raiseError_maxatt (e : EngineError) : (raiseError e s).maxatt = s.maxatt := rfl
@[simp] theorem raiseError_pollcnt (e : EngineError) : (raiseError e s).pollcnt = s.pollcnt := rfl
@[simp] theorem raiseError_xcnt (e : EngineError) : (raiseError e s).xcnt = s.xcnt := rfl
@[simp] theorem raiseError_dbuf (e : EngineError) : (raiseError e s).dbuf = s.dbuf := rfl
@[simp] theorem raiseError_dlen (e : EngineError) : (raiseError e s).dlen = s.dlen := rfl
@[simp] theorem raiseError_hist (e : EngineError) : (raiseError e s).hist = s.hist := rfl
@[simp] theorem raiseError_result (e : EngineError) : (raiseError e s).result = .nothing := rfl
@[simp] theorem raiseError_portValue (e : EngineError) : (raiseError e s).portValue = s.portValue := rfl
@[simp] theorem raiseError_hostQ (e : EngineError) : (raiseError e s).hostQ = s.hostQ := rfl
@[simp] theorem raiseError_pmode (e : EngineError) : (raiseError e s).pmode = s.pmode := rfl
@[simp] theorem raiseError_resetLine (e : EngineError) : (raiseError e s).resetLine = s.resetLine := rfl
@[simp] theorem raiseError_hostError (e : EngineError) : (raiseError e s).hostError = s.hostError := rfl
@[simp] theorem raiseError_readyIn (e : EngineError) : (raiseError e s).readyIn = s.readyIn := rfl
@[simp] theorem raiseError_linkIn (e : EngineError) : (raiseError e s).linkIn = s.linkIn := rfl
@[simp] theorem raiseError_draws (e : EngineError) : (raiseError e s).draws = s.draws := rfl

/-! ### complete -/
@[simp] theorem complete_cfg (r : OpResult) : (complete r s).cfg = s.cfg := rfl
@[simp] theorem complete_txf (r : OpResult) : (complete r s).txf = s.txf := rfl
@[simp] theorem complete_rxf (r : OpResult) : (complete r s).rxf = s.rxf := rfl
@[simp] theorem complete_req (r : OpResult) : (complete r s).req = s.req := rfl
@[simp] theorem complete_seq (r : OpResult) : (complete r s).seq = SeqPos.idle := rfl
@[simp] theorem complete_status (r : OpResult) : (complete r s).status = .ok := rfl
@[simp] theorem complete_err (r : OpResult) : (complete r s).err = s.err := rfl
@[simp] theorem complete_busy (r : OpResult) : (complete r s).busy = false := rfl
@[simp] theorem complete_isOpen (r : OpResult) : (complete r s).isOpen = s.isOpen := rfl
@[simp] theorem complete_dvalid (r : OpResult) : (complete r s).dvalid = s.dvalid := rfl
@[simp] theorem complete_maxatt (r : OpResult) : (complete r s).maxatt = s.maxatt := rfl
@[simp] theorem complete_pollcnt (r : OpResult) : (complete r s).pollcnt = s.pollcnt := rfl
@[simp] theorem complete_xcnt (r : OpResult) : (complete r s).xcnt = s.xcnt := rfl
@[simp] theorem complete_dbuf (r : OpResult) : (complete r s).dbuf = s.dbuf := rfl
@[simp] theorem complete_dlen (r : OpResult) : (complete r s).dlen = s.dlen := rfl
@[simp] theorem complete_hist (r : OpResult) : (complete r s).hist = s.hist := rfl
@[simp] theorem complete_result (r : OpResult) : (complete r s).result = r := rfl
@[simp] theorem complete_portValue (r : OpResult) : (complete r s).portValue = s.portValue := rfl
@[simp] theorem complete_hostQ (r : OpResult) : (complete r s).hostQ = s.hostQ := rfl
@[simp] theorem complete_pmode (r : OpResult) : (complete r s).pmode = s.pmode := rfl
@[simp] theorem complete_resetLine (r : OpResult) : (complete r s).resetLine = s.resetLine := rfl
@[simp] theorem complete_hostError (r : OpResult) : (complete r s).hostError = s.hostError := rfl
@[simp] theorem complete_readyIn (r : OpResult) : (complete r s).readyIn = s.readyIn := rfl
@[simp] theorem complete_linkIn (r : OpResult) : (complete r s).linkIn = s.linkIn := rfl
@[simp] theorem complete_draws (r : OpResult) : (complete r s).draws = s.draws := rfl

/-! ### buildTxf -/
@[simp] theorem buildTxf_cfg (o : Byte) (a : Args) : (buildTxf o a s).cfg = s.cfg := rfl
@[simp] theorem buildTxf_txf (o : Byte) (a : Args) : (buildTxf o a s).txf = some (buildFrame o a) := rfl
@[simp] theorem buildTxf_rxf (o : Byte) (a : Args) : (buildTxf o a s).rxf = s.rxf := rfl
@[simp] theorem buildTxf_req (o : Byte) (a : Args) : (buildTxf o a s).req = s.req := rfl
@[simp] theorem buildTxf_seq (o : Byte) (a : Args) : (buildTxf o a s).seq = s.seq := rfl
@[simp] theorem buildTxf_status (o : Byte) (a : Args) : (buildTxf o a s).status = s.status := rfl
@[simp] theorem buildTxf_err (o : Byte) (a : Args) : (buildTxf o a s).err = s.err := rfl
@[simp] theorem buildTxf_busy (o : Byte) (a : Args) : (buildTxf o a s).busy = s.busy := rfl
@[simp] theorem buildTxf_isOpen (o : Byte) (a : Args) : (buildTxf o a s).isOpen = s.isOpen := rfl
@[simp] theorem buildTxf_dvalid (o : Byte) (a : Args) : (buildTxf o a s).dvalid = s.dvalid := rfl
@[simp] theorem buildTxf_maxatt (o : Byte) (a : Args) : (buildTxf o a s).maxatt = s.maxatt := rfl
@[simp] theorem buildTxf_pollcnt (o : Byte) (a : Args) : (buildTxf o a s).pollcnt = s.pollcnt := rfl
@[simp] theorem buildTxf_xcnt (o : Byte) (a : Args) : (buildTxf o a s).xcnt = s.xcnt := rfl
@[simp] theorem buildTxf_dbuf (o : Byte) (a : Args) : (buildTxf o a s).dbuf = s.dbuf := rfl
@[simp] theorem buildTxf_dlen (o : Byte) (a : Args) : (buildTxf o a s).dlen = s.dlen := rfl
@[simp] theorem buildTxf_hist (o : Byte) (a : Args) : (buildTxf o a s).hist = s.hist := rfl
@[simp] theorem buildTxf_result (o : Byte) (a : Args) : (buildTxf o a s).result = s.result := rfl
@[simp] theorem buildTxf_portValue (o : Byte) (a : Args) : (buildTxf o a s).portValue = s.portValue := rfl
@[simp] theorem buildTxf_hostQ (o : Byte) (a : Args) : (buildTxf o a s).hostQ = s.hostQ := rfl
@[simp] theorem buildTxf_pmode (o : Byte) (a : Args) : (buildTxf o a s).pmode = s.pmode := rfl
@[simp] theorem buildTxf_resetLine (o : Byte) (a : Args) : (buildTxf o a s).resetLine = s.resetLine := rfl
@[simp] theorem buildTxf_hostError (o : Byte) (a : Args) : (buildTxf o a s).hostError = s.hostError := rfl
@[simp] theorem buildTxf_readyIn (o : Byte) (a : Args) : (buildTxf o a s).readyIn = s.readyIn := rfl
@[simp] theorem buildTxf_linkIn (o : Byte) (a : Args) : (buildTxf o a s).linkIn = s.linkIn := rfl
@[simp] theorem buildTxf_draws (o : Byte) (a : Args) : (buildTxf o a s).draws = s.draws := rfl

/-! ### deliverFrame -/
@[simp] theorem deliverFrame_cfg (f : Frame) : (deliverFrame f s).cfg = s.cfg := rfl
@[simp] theorem deliverFrame_txf (f : Frame) : (deliverFrame f s).txf = s.txf := rfl
@[simp] theorem deliverFrame_rxf (f : Frame) : (deliverFrame f s).rxf = s.rxf := rfl
@[simp] theorem deliverFrame_req (f : Frame) : (deliverFrame f s).req = s.req := rfl
@[simp] theorem deliverFrame_seq (f : Frame) : (deliverFrame f s).seq = s.seq := rfl
@[simp] theorem deliverFrame_status (f : Frame) : (deliverFrame f s).status = s.status := rfl
@[simp] theorem deliverFrame_err (f : Frame) : (deliverFrame f s).err = s.err := rfl
@[simp] theorem deliverFrame_busy (f : Frame) : (deliverFrame f s).busy = s.busy := rfl
@[simp] theorem deliverFrame_isOpen (f : Frame) : (deliverFrame f s).isOpen = s.isOpen := rfl
@[simp] theorem deliverFrame_dvalid (f : Frame) : (deliverFrame f s).dvalid = s.dvalid := rfl
@[simp] theorem deliverFrame_maxatt (f : Frame) : (deliverFrame f s).maxatt = s.maxatt := rfl
@[simp] theorem deliverFrame_pollcnt (f : Frame) : (deliverFrame f s).pollcnt = s.pollcnt := rfl
@[simp] theorem deliverFrame_xcnt (f : Frame) : (deliverFrame f s).xcnt = s.xcnt := rfl
@[simp] theorem deliverFrame_dbuf (f : Frame) : (deliverFrame f s).dbuf = s.dbuf := rfl
@[simp] theorem deliverFrame_dlen (f : Frame) : (deliverFrame f s).dlen = s.dlen := rfl
@[simp] theorem deliverFrame_hist (f : Frame) : (deliverFrame f s).hist = s.hist := rfl
@[simp] theorem deliverFrame_result (f : Frame) : (deliverFrame f s).result = s.result := rfl
@[simp] theorem deliverFrame_portValue (f : Frame) : (deliverFrame f s).portValue = s.portValue := rfl
@[simp] theorem deliverFrame_hostQ (f : Frame) : (deliverFrame f s).hostQ = s.hostQ := rfl
@[simp] theorem deliverFrame_pmode (f : Frame) : (deliverFrame f s).pmode = s.pmode := rfl
@[simp] theorem deliverFrame_resetLine (f : Frame) : (deliverFrame f s).resetLine = s.resetLine := rfl
@[simp] theorem deliverFrame_hostError (f : Frame) : (deliverFrame f s).hostError = s.hostError := rfl
@[simp] theorem deliverFrame_readyIn (f : Frame) : (deliverFrame f s).readyIn = s.readyIn := rfl
@[simp] theorem deliverFrame_linkIn (f : Frame) : (deliverFrame f s).linkIn = frameChunks f ++ s.linkIn := rfl
@[simp] theorem deliverFrame_draws (f : Frame) : (deliverFrame f s).draws = s.draws := rfl

/-! ### nextReady -/
@[simp] theorem nextReady_cfg : (nextReady s).2.cfg = s.cfg := by unfold nextReady; split <;> rfl
@[simp] theorem nextReady_txf : (nextReady s).2.txf = s.txf := by unfold nextReady; split <;> rfl
@[simp] theorem nextReady_rxf : (nextReady s).2.rxf = s.rxf := by unfold nextReady; split <;> rfl
@[simp] theorem nextReady_req : (nextReady s).2.req = s.req := by unfold nextReady; split <;> rfl
@[simp] theorem nextReady_seq : (nextReady s).2.seq = s.seq := by unfold nextReady; split <;> rfl
@[simp] theorem nextReady_status : (nextReady s).2.status = s.status := by unfold nextReady; split <;> rfl
@[simp] theorem nextReady_err : (nextReady s).2.err = s.err := by unfold nextReady; split <;> rfl
@[simp] theorem nextReady_busy : (nextReady s).2.busy = s.busy := by unfold nextReady; split <;> rfl
@[simp] theorem nextReady_isOpen : (nextReady s).2.isOpen = s.isOpen := by unfold nextReady; split <;> rfl
@[simp] theorem nextReady_dvalid : (nextReady s).2.dvalid = s.dvalid := by unfold nextReady; split <;> rfl
@[simp] theorem nextReady_maxatt : (nextReady s).2.maxatt = s.maxatt := by unfold nextReady; split <;> rfl
@[simp] theorem nextReady_pollcnt : (nextReady s).2.pollcnt = s.pollcnt := by unfold nextReady; split <;> rfl
@[simp] theorem nextReady_xcnt : (nextReady s).2.xcnt = s.xcnt := by unfold nextReady; split <;> rfl
@[simp] theorem nextReady_dbuf : (nextReady s).2.dbuf = s.dbuf := by unfold nextReady; split <;> rfl
@[simp] theorem nextReady_dlen : (nextReady s).2.dlen = s.dlen := by unfold nextReady; split <;> rfl
@[simp] theorem nextReady_hist : (nextReady s).2.hist = s.hist := by unfold nextReady; split <;> rfl
@[simp] theorem nextReady_result : (nextReady s).2.result = s.result := by unfold nextReady; split <;> rfl
@[simp] theorem nextReady_portValue : (nextReady s).2.portValue = s.portValue := by unfold nextReady; split <;> rfl
@[simp] theorem nextReady_hostQ : (nextReady s).2.hostQ = s.hostQ := by unfold nextReady; split <;> rfl
@[simp] theorem nextReady_pmode : (nextReady s).2.pmode = s.pmode := by unfold nextReady; split <;> rfl
@[simp] theorem nextReady_resetLine : (nextReady s).2.resetLine = s.resetLine := by unfold nextReady; split <;> rfl
@[simp] theorem nextReady_hostError : (nextReady s).2.hostError = s.hostError := by unfold nextReady; split <;> rfl
@[simp] theorem nextReady_linkIn : (nextReady s).2.linkIn = s.linkIn := by unfold nextReady; split <;> rfl

/-! ### nextChunk -/
@[simp] theorem nextChunk_cfg : (nextChunk s).2.cfg = s.cfg := by unfold nextChunk; split <;> rfl
@[simp] theorem nextChunk_txf : (nextChunk s).2.txf = s.txf := by unfold nextChunk; split <;> rfl
@[simp] theorem nextChunk_rxf : (nextChunk s).2.rxf = s.rxf := by unfold nextChunk; split <;> rfl
@[simp] theorem nextChunk_req : (nextChunk s).2.req = s.req := by unfold nextChunk; split <;> rfl
@[simp] theorem nextChunk_seq : (nextChunk s).2.seq = s.seq := by unfold nextChunk; split <;> rfl
@[simp] theorem nextChunk_status : (nextChunk s).2.status = s.status := by unfold nextChunk; split <;> rfl
@[simp] theorem nextChunk_err : (nextChunk s).2.err = s.err := by unfold nextChunk; split <;> rfl
@[simp] theorem nextChunk_busy : (nextChunk s).2.busy = s.busy := by unfold nextChunk; split <;> rfl
@[simp] theorem nextChunk_isOpen : (nextChunk s).2.isOpen = s.isOpen := by unfold nextChunk; split <;> rfl
@[simp] theorem nextChunk_dvalid : (nextChunk s).2.dvalid = s.dvalid := by unfold nextChunk; split <;> rfl
@[simp] theorem nextChunk_maxatt : (nextChunk s).2.maxatt = s.maxatt := by unfold nextChunk; split <;> rfl
@[simp] theorem nextChunk_pollcnt : (nextChunk s).2.pollcnt = s.pollcnt := by unfold nextChunk; split <;> rfl
@[simp] theorem nextChunk_xcnt : (nextChunk s).2.xcnt = s.xcnt := by unfold nextChunk; split <;> rfl
@[simp] theorem nextChunk_dbuf : (nextChunk s).2.dbuf = s.dbuf := by unfold nextChunk; split <;> rfl
@[simp] theorem nextChunk_dlen : (nextChunk s).2.dlen = s.dlen := by unfold nextChunk; split <;> rfl
@[simp] theorem nextChunk_hist : (nextChunk s).2.hist = s.hist := by unfold nextChunk; split <;> rfl
@[simp] theorem nextChunk_result : (nextChunk s).2.result = s.result := by unfold nextChunk; split <;> rfl
@[simp] theorem nextChunk_portValue : (nextChunk s).2.portValue = s.portValue := by unfold nextChunk; split <;> rfl
@[simp] theorem nextChunk_hostQ : (nextChunk s).2.hostQ = s.hostQ := by unfold nextChunk; split <;> rfl
@[simp] theorem nextChunk_pmode : (nextChunk s).2.pmode = s.pmode := by unfold nextChunk; split <;> rfl
@[simp] theorem nextChunk_resetLine : (nextChunk s).2.resetLine = s.resetLine := by unfold nextChunk; split <;> rfl
@[simp] theorem nextChunk_hostError : (nextChunk s).2.hostError = s.hostError := by unfold nextChunk; split <;> rfl
@[simp] theorem nextChunk_readyIn : (nextChunk s).2.readyIn = s.readyIn := by unfold nextChunk; split <;> rfl

/-! ### sampleReady -/
@[simp] theorem sampleReady_fst : (sampleReady s).1 = (nextReady s).1 := rfl
@[simp] theorem sampleReady_cfg : (sampleReady s).2.cfg = s.cfg := by simp [sampleReady]
@[simp] theorem sampleReady_txf : (sampleReady s).2.txf = s.txf := by simp [sampleReady]
@[simp] theorem sampleReady_rxf : (sampleReady s).2.rxf = s.rxf := by simp [sampleReady]
@[simp] theorem sampleReady_req : (sampleReady s).2.req = s.req := by simp [sampleReady]
@[simp] theorem sampleReady_seq : (sampleReady s).2.seq = s.seq := by simp [sampleReady]
@[simp] theorem sampleReady_status : (sampleReady s).2.status = s.status := by simp [sampleReady]
@[simp] theorem sampleReady_err : (sampleReady s).2.err = s.err := by simp [sampleReady]
@[simp] theorem sampleReady_busy : (sampleReady s).2.busy = s.busy := by simp [sampleReady]
@[simp] theorem sampleReady_isOpen : (sampleReady s).2.isOpen = s.isOpen := by simp [sampleReady]
@[simp] theorem sampleReady_dvalid : (sampleReady s).2.dvalid = s.dvalid := by simp [sampleReady]
@[simp] theorem sampleReady_maxatt : (sampleReady s).2.maxatt = s.maxatt := by simp [sampleReady]
@[simp] theorem sampleReady_pollcnt : (sampleReady s).2.pollcnt = s.pollcnt := by simp [sampleReady]
@[simp] theorem sampleReady_xcnt : (sampleReady s).2.xcnt = s.xcnt := by simp [sampleReady]
@[simp] theorem sampleReady_dbuf : (sampleReady s).2.dbuf = s.dbuf := by simp [sampleReady]
@[simp] theorem sampleReady_dlen : (sampleReady s).2.dlen = s.dlen := by simp [sampleReady]
@[simp] theorem sampleReady_hist : (sampleReady s).2.hist = s.hist ++ [.poll (nextReady s).1] := by simp [sampleReady]
@[simp] theorem sampleReady_result : (sampleReady s).2.result = s.result := by simp [sampleReady]
@[simp] theorem sampleReady_portValue : (sampleReady s).2.portValue = s.portValue := by simp [sampleReady]
@[simp] theorem sampleReady_hostQ : (sampleReady s).2.hostQ = s.hostQ := by simp [sampleReady]
@[simp] theorem sampleReady_pmode : (sampleReady s).2.pmode = s.pmode := by simp [sampleReady]
@[simp] theorem sampleReady_resetLine : (sampleReady s).2.resetLine = s.resetLine := by simp [sampleReady]
@[simp] theorem sampleReady_hostError : (sampleReady s).2.hostError = s.hostError := by simp [sampleReady]
@[simp] theorem sampleReady_readyIn : (sampleReady s).2.readyIn = (nextReady s).2.readyIn := by simp [sampleReady]
@[simp] theorem sampleReady_linkIn : (sampleReady s).2.linkIn = s.linkIn := by simp [sampleReady]
@[simp] theorem sampleReady_draws : (sampleReady s).2.draws = (nextReady s).2.draws := by simp [sampleReady]

/-! ### rxChunk -/
@[simp] theorem rxChunk_fst : (rxChunk s).1 = (nextChunk s).1 := rfl
@[simp] theorem rxChunk_cfg : (rxChunk s).2.cfg = s.cfg := by simp [rxChunk]
@[simp] theorem rxChunk_txf : (rxChunk s).2.txf = s.txf := by simp [rxChunk]
@[simp] theorem rxChunk_rxf : (rxChunk s).2.rxf = s.rxf := by simp [rxChunk]
@[simp] theorem rxChunk_req : (rxChunk s).2.req = s.req := by simp [rxChunk]
@[simp] theorem rxChunk_seq : (rxChunk s).2.seq = s.seq := by simp [rxChunk]
@[simp] theorem rxChunk_status : (rxChunk s).2.status = s.status := by simp [rxChunk]
@[simp] theorem rxChunk_err : (rxChunk s).2.err = s.err := by simp [rxChunk]
@[simp] theorem rxChunk_busy : (rxChunk s).2.busy = s.busy := by simp [rxChunk]
@[simp] theorem rxChunk_isOpen : (rxChunk s).2.isOpen = s.isOpen := by simp [rxChunk]
@[simp] theorem rxChunk_dvalid : (rxChunk s).2.dvalid = s.dvalid := by simp [rxChunk]
@[simp] theorem rxChunk_maxatt : (rxChunk s).2.maxatt = s.maxatt := by simp [rxChunk]
@[simp] theorem rxChunk_pollcnt : (rxChunk s).2.pollcnt = s.pollcnt := by simp [rxChunk]
@[simp] theorem rxChunk_xcnt : (rxChunk s).2.xcnt = s.xcnt := by simp [rxChunk]
@[simp] theorem rxChunk_dbuf : (rxChunk s).2.dbuf = s.dbuf := by simp [rxChunk]
@[simp] theorem rxChunk_dlen : (rxChunk s).2.dlen = s.dlen := by simp [rxChunk]
@[simp] theorem rxChunk_hist : (rxChunk s).2.hist = s.hist ++ [.rx (nextChunk s).1] := by simp [rxChunk]
@[simp] theorem rxChunk_result : (rxChunk s).2.result = s.result := by simp [rxChunk]
@[simp] theorem rxChunk_portValue : (rxChunk s).2.portValue = s.portValue := by simp [rxChunk]
@[simp] theorem rxChunk_hostQ : (rxChunk s).2.hostQ = s.hostQ := by simp [rxChunk]
@[simp] theorem rxChunk_pmode : (rxChunk s).2.pmode = s.pmode := by simp [rxChunk]
@[simp] theorem rxChunk_resetLine : (rxChunk s).2.resetLine = s.resetLine := by simp [rxChunk]
@[simp] theorem rxChunk_hostError : (rxChunk s).2.hostError = s.hostError := by simp [rxChunk]
@[simp] theorem rxChunk_readyIn : (rxChunk s).2.readyIn = s.readyIn := by simp [rxChunk]
@[simp] theorem rxChunk_linkIn : (rxChunk s).2.linkIn = (nextChunk s).2.linkIn := by simp [rxChunk]
@[simp] theorem rxChunk_draws : (rxChunk s).2.draws = (nextChunk s).2.draws := by simp [rxChunk]

/-! ### txChunk -/
@[simp] theorem txChunk_cfg (c : Chunk) : (txChunk c s).cfg = s.cfg := rfl
@[simp] theorem txChunk_txf (c : Chunk) : (txChunk c s).txf = s.txf := rfl
@[simp] theorem txChunk_rxf (c : Chunk) : (txChunk c s).rxf = s.rxf := rfl
@[simp] theorem txChunk_req (c : Chunk) : (txChunk c s).req = s.req := rfl
@[simp] theorem txChunk_seq (c : Chunk) : (txChunk c s).seq = s.seq := rfl
@[simp] theorem txChunk_status (c : Chunk) : (txChunk c s).status = s.status := rfl
@[simp] theorem txChunk_err (c : Chunk) : (txChunk c s).err = s.err := rfl
@[simp] theorem txChunk_busy (c : Chunk) : (txChunk c s).busy = s.busy := rfl
@[simp] theorem txChunk_isOpen (c : Chunk) : (txChunk c s).isOpen = s.isOpen := rfl
@[simp] theorem txChunk_dvalid (c : Chunk) : (txChunk c s).dvalid = s.dvalid := rfl
@[simp] theorem txChunk_maxatt (c : Chunk) : (txChunk c s).maxatt = s.maxatt := rfl
@[simp] theorem txChunk_pollcnt (c : Chunk) : (txChunk c s).pollcnt = s.pollcnt := rfl
@[simp] theorem txChunk_xcnt (c : Chunk) : (txChunk c s).xcnt = s.xcnt := rfl
@[simp] theorem txChunk_dbuf (c : Chunk) : (txChunk c s).dbuf = s.dbuf := rfl
@[simp] theorem txChunk_dlen (c : Chunk) : (txChunk c s).dlen = s.dlen := rfl
@[simp] theorem txChunk_hist (c : Chunk) : (txChunk c s).hist = s.hist ++ [.tx c] := rfl
@[simp] theorem txChunk_result (c : Chunk) : (txChunk c s).result = s.result := rfl
@[simp] theorem txChunk_portValue (c : Chunk) : (txChunk c s).portValue = s.portValue := rfl
@[simp] theorem txChunk_hostQ (c : Chunk) : (txChunk c s).hostQ = s.hostQ := rfl
@[simp] theorem txChunk_pmode (c : Chunk) : (txChunk c s).pmode = s.pmode := rfl
@[simp] theorem txChunk_resetLine (c : Chunk) : (txChunk c s).resetLine = s.resetLine := rfl
@[simp] theorem txChunk_hostError (c : Chunk) : (txChunk c s).hostError = s.hostError := rfl
@[simp] theorem txChunk_readyIn (c : Chunk) : (txChunk c s).readyIn = s.readyIn := rfl
@[simp] theorem txChunk_linkIn (c : Chunk) : (txChunk c s).linkIn = s.linkIn := rfl
@[simp] theorem txChunk_draws (c : Chunk) : (txChunk c s).draws = s.draws := rfl

end Sys2Proof.Machine
end

