-- ==== Sys2Proof/Laws/Wire.lean ====
section
/-! SUPPORT. What each shared wire operation can do, said once: for a MODULE whose answers are written
down in the state (`_scripted`, `_silent`: the exact next state), and for every MODULE (`_cases`: the
next state but for the answers consumed). Provers cite these instead of unfolding the loops. -/

namespace Sys2Proof.Machine

/-! ### Answers and events -/

@[simp] theorem gateAnswers_zero : gateAnswers 0 = [true] := rfl
theorem gateAnswers_succ (k : Nat) : gateAnswers (k + 1) = false :: gateAnswers k := rfl
@[simp] theorem gateEvents_zero : gateEvents 0 = [.poll true] := rfl
theorem gateEvents_succ (k : Nat) : gateEvents (k + 1) = .poll false :: gateEvents k := rfl

@[simp] theorem answers_nil : answers [] = [] := rfl
theorem answers_cons (k : Nat) (ks : List Nat) : answers (k :: ks) = gateAnswers k ++ answers ks := rfl
theorem answers_append (ks ls : List Nat) : answers (ks ++ ls) = answers ks ++ answers ls := by
  simp [answers]
theorem answers_replicate_zero (n : Nat) : answers (List.replicate n 0) = List.replicate n true := by
  induction n with
  | zero => rfl
  | succ n ih => simp [List.replicate_succ, answers_cons, ih]

@[simp] theorem sentEvents_nil (cs : List Chunk) : sentEvents [] cs = [] := by simp [sentEvents]
@[simp] theorem sentEvents_nil_right (ks : List Nat) : sentEvents ks [] = [] := by simp [sentEvents]
theorem sentEvents_cons (k : Nat) (ks : List Nat) (c : Chunk) (cs : List Chunk) :
    sentEvents (k :: ks) (c :: cs) = gateEvents k ++ [.tx c] ++ sentEvents ks cs := by
  simp [sentEvents]
@[simp] theorem rcvdEvents_nil (cs : List Chunk) : rcvdEvents [] cs = [] := by simp [rcvdEvents]
@[simp] theorem rcvdEvents_nil_right (ks : List Nat) : rcvdEvents ks [] = [] := by simp [rcvdEvents]
theorem rcvdEvents_cons (k : Nat) (ks : List Nat) (c : Chunk) (cs : List Chunk) :
    rcvdEvents (k :: ks) (c :: cs) = gateEvents k ++ [.rx c] ++ rcvdEvents ks cs := by
  simp [rcvdEvents]

@[simp] theorem pollcntAfter_nil (p : BitVec 16) : pollcntAfter p [] = p := rfl
theorem pollcntAfter_cons (p : BitVec 16) (k : Nat) (ks : List Nat) :
    pollcntAfter p (k :: ks) = pollcntAfter (pollcntAfter p [k]) ks := rfl
theorem pollcntAfter_append (p : BitVec 16) (ks ls : List Nat) :
    pollcntAfter p (ks ++ ls) = pollcntAfter (pollcntAfter p ks) ls := by
  simp [pollcntAfter]
theorem pollcntAfter_replicate_zero (p : BitVec 16) (n : Nat) :
    pollcntAfter p (List.replicate n 0) = p := by
  induction n with
  | zero => rfl
  | succ n ih => rw [List.replicate_succ, pollcntAfter_cons]; exact ih

theorem withinBound_cons {m : BitVec 16} {k : Nat} {ks : List Nat} :
    withinBound m (k :: ks) ↔ k ≤ m.toNat ∧ withinBound m ks := by simp [withinBound]
@[simp] theorem withinBound_nil (m : BitVec 16) : withinBound m [] := by simp [withinBound]
theorem withinBound_append {m : BitVec 16} {ks ls : List Nat} :
    withinBound m (ks ++ ls) ↔ withinBound m ks ∧ withinBound m ls := by
  simp [withinBound, or_imp, forall_and]

/-! ### Counting -/

theorem pollcnt_step (p : BitVec 16) (k : Nat) :
    p + 1#16 + BitVec.ofNat 16 k = p + BitVec.ofNat 16 (k + 1) := by
  apply BitVec.eq_of_toNat_eq; simp only [BitVec.toNat_add, BitVec.toNat_ofNat]; omega

theorem chunk_step (x : BitVec 17) (n : Nat) :
    x + 4#17 + BitVec.ofNat 17 (4 * n) = x + BitVec.ofNat 17 (4 * (n + 1)) := by
  apply BitVec.eq_of_toNat_eq; simp only [BitVec.toNat_add, BitVec.toNat_ofNat]; omega

/-! ### Running -/

@[simp] theorem Run.bind_ok {α β : Type} (a : α) (s : State) (k : α → State → Run β) :
    (Run.ok a s).bind k = k a s := rfl
@[simp] theorem Run.bind_raised {α β : Type} (e : EngineError) (s : State) (k : α → State → Run β) :
    (Run.raised e s).bind k = .raised e s := rfl
@[simp] theorem Run.onRaise_ok {α : Type} (a : α) (s : State) (f : State → State) :
    (Run.ok a s).onRaise f = .ok a s := rfl
@[simp] theorem Run.onRaise_raised {α : Type} (e : EngineError) (s : State) (f : State → State) :
    (Run.raised (α := α) e s).onRaise f = .raised e (f s) := rfl
@[simp] theorem finish_ok (r : OpResult) (s : State) : finish (.ok r s) = complete r s := rfl
@[simp] theorem finish_raised (e : EngineError) (s : State) :
    finish (.raised e s) = raiseError e s := rfl

theorem nextReady_cons {s : State} {b : Bool} {bs : List Bool} (h : s.readyIn = b :: bs) :
    nextReady s = (b, { s with readyIn := bs }) := by simp [nextReady, h]
theorem nextChunk_cons {s : State} {c : Chunk} {cs : List Chunk} (h : s.linkIn = c :: cs) :
    nextChunk s = (c, { s with linkIn := cs }) := by simp [nextChunk, h]

theorem sampleReady_cons {s : State} {b : Bool} {bs : List Bool} (h : s.readyIn = b :: bs) :
    sampleReady s = (b, { s with readyIn := bs, hist := s.hist ++ [.poll b] }) := by
  simp [sampleReady, nextReady_cons h, record]
theorem rxChunk_cons {s : State} {c : Chunk} {cs : List Chunk} (h : s.linkIn = c :: cs) :
    rxChunk s = (c, { s with linkIn := cs, hist := s.hist ++ [.rx c] }) := by
  simp [rxChunk, nextChunk_cons h, record]

/-- What a readiness sample can do. -/
theorem sampleReady_cases (s : State) : ∃ b r d,
    sampleReady s = (b, { s with readyIn := r, draws := d, hist := s.hist ++ [.poll b] }) := by
  unfold sampleReady nextReady record
  split <;> exact ⟨_, _, _, rfl⟩

/-- What receiving a chunk can do. -/
theorem rxChunk_cases (s : State) : ∃ c l d,
    rxChunk s = (c, { s with linkIn := l, draws := d, hist := s.hist ++ [.rx c] }) := by
  unfold rxChunk nextChunk record
  split <;> exact ⟨_, _, _, rfl⟩

/-! ### WaitReady's loop (R92, R93) -/

/-- The first true answer within the bound ends the wait. -/
theorem waitLoop_scripted (n k : Nat) (s : State) (rest : List Bool)
    (h : s.readyIn = gateAnswers k ++ rest) (hk : k < n) :
    waitLoop n s = .ok () { s with
      readyIn := rest
      hist := s.hist ++ gateEvents k
      pollcnt := s.pollcnt + BitVec.ofNat 16 k } := by
  induction k generalizing n s with
  | zero =>
    obtain ⟨n, rfl⟩ : ∃ m, n = m + 1 := ⟨n - 1, by omega⟩
    simp only [gateAnswers_zero, List.singleton_append] at h
    simp [waitLoop, sampleReady_cons h]
  | succ k ih =>
    obtain ⟨n, rfl⟩ : ∃ m, n = m + 1 := ⟨n - 1, by omega⟩
    rw [gateAnswers_succ, List.cons_append] at h
    simp only [waitLoop, sampleReady_cons h, Bool.false_eq_true, if_false]
    rw [ih n _ rfl (by omega)]
    simp [gateEvents_succ, pollcnt_step]

/-- A bound's worth of false answers times out, and no further one is sampled. -/
theorem waitLoop_silent (n : Nat) (s : State) (rest : List Bool)
    (h : s.readyIn = List.replicate n false ++ rest) :
    waitLoop n s = .raised .timeout { s with
      readyIn := rest
      hist := s.hist ++ List.replicate n (.poll false)
      pollcnt := s.pollcnt + BitVec.ofNat 16 n } := by
  induction n generalizing s with
  | zero => simp only [List.replicate_zero, List.nil_append] at h; simp [waitLoop, ← h]
  | succ n ih =>
    rw [List.replicate_succ, List.cons_append] at h
    simp only [waitLoop, sampleReady_cons h, Bool.false_eq_true, if_false]
    rw [ih _ rfl]
    simp [List.replicate_succ, pollcnt_step]

/-- What WaitReady's loop can do, whatever the MODULE answers. -/
theorem waitLoop_cases (n : Nat) (s : State) : ∃ r d,
    (∃ k, k < n ∧ waitLoop n s = .ok () { s with
      readyIn := r, draws := d, hist := s.hist ++ gateEvents k
      pollcnt := s.pollcnt + BitVec.ofNat 16 k }) ∨
    (waitLoop n s = .raised .timeout { s with
      readyIn := r, draws := d, hist := s.hist ++ List.replicate n (.poll false)
      pollcnt := s.pollcnt + BitVec.ofNat 16 n }) := by
  induction n generalizing s with
  | zero => exact ⟨s.readyIn, s.draws, .inr (by simp [waitLoop])⟩
  | succ n ih =>
    obtain ⟨b, r, d, hb⟩ := sampleReady_cases s
    cases b with
    | true => exact ⟨r, d, .inl ⟨0, by omega, by simp [waitLoop, hb]⟩⟩
    | false =>
      obtain ⟨r', d', h⟩ := ih { s with
        readyIn := r, draws := d, hist := s.hist ++ [.poll false], pollcnt := s.pollcnt + 1 }
      refine ⟨r', d', ?_⟩
      rcases h with ⟨k, hk, h⟩ | h
      · left; refine ⟨k + 1, by omega, ?_⟩
        simp only [waitLoop, hb, Bool.false_eq_true, if_false, h]
        simp [gateEvents_succ, pollcnt_step]
      · right
        simp only [waitLoop, hb, Bool.false_eq_true, if_false, h]
        simp [List.replicate_succ, pollcnt_step]

/-! ### The gate (R100) -/

theorem gate_scripted (k : Nat) (s : State) (rest : List Bool)
    (h : s.readyIn = gateAnswers k ++ rest) (hk : k ≤ s.maxatt.toNat) :
    gate s = .ok () { s with
      readyIn := rest
      hist := s.hist ++ gateEvents k
      pollcnt := pollcntAfter s.pollcnt [k] } := by
  cases k with
  | zero =>
    simp only [gateAnswers_zero, List.singleton_append] at h
    simp [gate, sampleReady_cons h, pollcntAfter]
  | succ k =>
    rw [gateAnswers_succ, List.cons_append] at h
    simp only [gate, sampleReady_cons h, Bool.false_eq_true, if_false, waitReady]
    rw [waitLoop_scripted _ k _ rest rfl (by simpa using hk)]
    simp [gateEvents_succ, pollcntAfter]

theorem gate_silent (s : State) (rest : List Bool) (h : s.readyIn = silence s.maxatt ++ rest) :
    gate s = .raised .timeout { s with
      readyIn := rest
      hist := s.hist ++ silentEvents s.maxatt
      pollcnt := s.maxatt } := by
  rw [silence, List.replicate_succ, List.cons_append] at h
  simp only [gate, sampleReady_cons h, Bool.false_eq_true, if_false, waitReady]
  rw [waitLoop_silent _ _ rest rfl]
  simp [silentEvents, List.replicate_succ]

/-- What the gate can do, whatever the MODULE answers. -/
theorem gate_cases (s : State) : ∃ r d,
    (∃ k, k ≤ s.maxatt.toNat ∧ gate s = .ok () { s with
      readyIn := r, draws := d, hist := s.hist ++ gateEvents k
      pollcnt := pollcntAfter s.pollcnt [k] }) ∨
    (gate s = .raised .timeout { s with
      readyIn := r, draws := d, hist := s.hist ++ silentEvents s.maxatt, pollcnt := s.maxatt }) := by
  obtain ⟨b, r, d, hb⟩ := sampleReady_cases s
  cases b with
  | true => exact ⟨r, d, .inl ⟨0, by omega, by simp [gate, hb, pollcntAfter]⟩⟩
  | false =>
    obtain ⟨r', d', h⟩ := waitLoop_cases s.maxatt.toNat { s with
      readyIn := r, draws := d, hist := s.hist ++ [.poll false], pollcnt := 0 }
    refine ⟨r', d', ?_⟩
    rcases h with ⟨k, hk, h⟩ | h
    · left; refine ⟨k + 1, by omega, ?_⟩
      simp only [gate, hb, Bool.false_eq_true, if_false, waitReady, h]
      simp [gateEvents_succ, pollcntAfter]
    · right
      simp only [gate, hb, Bool.false_eq_true, if_false, waitReady, h]
      simp [silentEvents, List.replicate_succ]

/-! ### Send's loop (R101) -/

theorem sendLoop_scripted (cs : List Chunk) (ks : List Nat) (s : State) (rest : List Bool)
    (hl : ks.length = cs.length) (h : s.readyIn = answers ks ++ rest)
    (hk : withinBound s.maxatt ks) :
    sendLoop cs s = .ok () { s with
      readyIn := rest
      hist := s.hist ++ sentEvents ks cs
      pollcnt := pollcntAfter s.pollcnt ks
      xcnt := s.xcnt + BitVec.ofNat 17 (4 * cs.length)
      seq := { s.seq with off := s.seq.off + BitVec.ofNat 17 (4 * cs.length) } } := by
  induction cs generalizing ks s with
  | nil =>
    obtain rfl : ks = [] := by simpa using hl
    simp only [answers_nil, List.nil_append] at h
    simp [sendLoop, ← h]
  | cons c cs ih =>
    obtain ⟨k, ks, rfl⟩ : ∃ k ks', ks = k :: ks' := by cases ks <;> simp at hl ⊢
    rw [answers_cons, List.append_assoc] at h
    rw [withinBound_cons] at hk
    rw [sendLoop, gate_scripted k s _ h hk.1, Run.bind_ok,
      ih ks _ (by simpa using hl) (by simp [advance, txChunk, record])
        (by simpa [advance, txChunk, record] using hk.2)]
    simp [advance, txChunk, record, sentEvents_cons, pollcntAfter_cons _ k ks, chunk_step]

theorem sendLoop_silent (cs : List Chunk) (ks : List Nat) (s : State) (rest : List Bool)
    (hl : ks.length < cs.length) (h : s.readyIn = answers ks ++ (silence s.maxatt ++ rest))
    (hk : withinBound s.maxatt ks) :
    sendLoop cs s = .raised .timeout { s with
      readyIn := rest
      hist := s.hist ++ sentEvents ks cs ++ silentEvents s.maxatt
      pollcnt := s.maxatt
      xcnt := s.xcnt + BitVec.ofNat 17 (4 * ks.length)
      seq := { s.seq with off := s.seq.off + BitVec.ofNat 17 (4 * ks.length) } } := by
  induction cs generalizing ks s with
  | nil => simp at hl
  | cons c cs ih =>
    cases ks with
    | nil =>
      simp only [answers_nil, List.nil_append] at h
      simp [sendLoop, gate_silent s rest h]
    | cons k ks =>
      rw [answers_cons, List.append_assoc] at h
      rw [withinBound_cons] at hk
      rw [sendLoop, gate_scripted k s _ h hk.1, Run.bind_ok,
        ih ks _ (by simpa using hl) (by simp [advance, txChunk, record])
          (by simpa [advance, txChunk, record] using hk.2)]
      simp [advance, txChunk, record, sentEvents_cons, chunk_step]

/-- What Send's loop can do, whatever the MODULE answers. -/
theorem sendLoop_cases (cs : List Chunk) (s : State) : ∃ r d ks, withinBound s.maxatt ks ∧
    ((ks.length = cs.length ∧ sendLoop cs s = .ok () { s with
      readyIn := r, draws := d, hist := s.hist ++ sentEvents ks cs
      pollcnt := pollcntAfter s.pollcnt ks
      xcnt := s.xcnt + BitVec.ofNat 17 (4 * cs.length)
      seq := { s.seq with off := s.seq.off + BitVec.ofNat 17 (4 * cs.length) } }) ∨
    (ks.length < cs.length ∧ sendLoop cs s = .raised .timeout { s with
      readyIn := r, draws := d, hist := s.hist ++ sentEvents ks cs ++ silentEvents s.maxatt
      pollcnt := s.maxatt
      xcnt := s.xcnt + BitVec.ofNat 17 (4 * ks.length)
      seq := { s.seq with off := s.seq.off + BitVec.ofNat 17 (4 * ks.length) } })) := by
  induction cs generalizing s with
  | nil => exact ⟨s.readyIn, s.draws, [], by simp, .inl ⟨rfl, by simp [sendLoop]⟩⟩
  | cons c cs ih =>
    obtain ⟨r, d, ⟨k, hk, h⟩ | h⟩ := gate_cases s
    · obtain ⟨r', d', ks, hb, h'⟩ := ih (advance (txChunk c { s with
        readyIn := r, draws := d, hist := s.hist ++ gateEvents k
        pollcnt := pollcntAfter s.pollcnt [k] }))
      refine ⟨r', d', k :: ks, withinBound_cons.2 ⟨hk, by simpa using hb⟩, ?_⟩
      rcases h' with ⟨hl, h'⟩ | ⟨hl, h'⟩
      · left; refine ⟨by simpa using hl, ?_⟩
        rw [sendLoop, h, Run.bind_ok, h']
        simp [advance, txChunk, record, sentEvents_cons, pollcntAfter_cons _ k ks, chunk_step]
      · right; refine ⟨by simpa using hl, ?_⟩
        rw [sendLoop, h, Run.bind_ok, h']
        simp [advance, txChunk, record, sentEvents_cons, chunk_step]
    · exact ⟨r, d, [], by simp, .inr ⟨by simp, by simp [sendLoop, h]⟩⟩

end Sys2Proof.Machine
end

