-- ==== Sys2Proof/Laws/Receive.lean ====
section
/-! SUPPORT. What receiving can do (R103, R112), for a scripted MODULE and for every MODULE. -/

namespace Sys2Proof.Machine

@[simp] theorem frameOfChunks_frameChunks (f : Frame) (c d : Chunk)
    (h : frameChunks f = [c, d]) : frameOfChunks c d = f := by
  simp only [frameChunks, List.cons.injEq, and_true] at h
  obtain ⟨rfl, rfl⟩ := h; rfl

theorem frameChunks_frameOfChunks (c d : Chunk) : frameChunks (frameOfChunks c d) = [c, d] := rfl

@[simp] theorem Chunk.bytes_length (c : Chunk) : c.bytes.length = 4 := rfl

@[simp] theorem flatMap_bytes_length (cs : List Chunk) :
    (cs.flatMap Chunk.bytes).length = 4 * cs.length := by
  induction cs with
  | nil => rfl
  | cons c cs ih => simp [ih]; omega

theorem recvChunk_scripted (k : Nat) (s : State) (rest : List Bool) (c : Chunk) (more : List Chunk)
    (h : s.readyIn = gateAnswers k ++ rest) (hl : s.linkIn = c :: more)
    (hk : k ≤ s.maxatt.toNat) :
    recvChunk s = .ok c { s with
      readyIn := rest, linkIn := more
      hist := s.hist ++ (gateEvents k ++ [.rx c])
      pollcnt := pollcntAfter s.pollcnt [k]
      xcnt := s.xcnt + 4
      seq := { s.seq with off := s.seq.off + 4 } } := by
  rw [recvChunk, gate_scripted k s rest h hk, Run.bind_ok, rxChunk_cons (c := c) (cs := more)]
  · simp [advance]
  · exact hl

theorem recvChunk_silent (s : State) (rest : List Bool) (h : s.readyIn = silence s.maxatt ++ rest) :
    recvChunk s = .raised .timeout { s with
      readyIn := rest
      hist := s.hist ++ silentEvents s.maxatt
      pollcnt := s.maxatt } := by
  rw [recvChunk, gate_silent s rest h, Run.bind_raised]

/-- What receiving one chunk can do, whatever the MODULE answers. -/
theorem recvChunk_cases (s : State) : ∃ r d,
    (∃ k c l, k ≤ s.maxatt.toNat ∧ recvChunk s = .ok c { s with
      readyIn := r, linkIn := l, draws := d
      hist := s.hist ++ (gateEvents k ++ [.rx c])
      pollcnt := pollcntAfter s.pollcnt [k]
      xcnt := s.xcnt + 4
      seq := { s.seq with off := s.seq.off + 4 } }) ∨
    (recvChunk s = .raised .timeout { s with
      readyIn := r, draws := d, hist := s.hist ++ silentEvents s.maxatt, pollcnt := s.maxatt }) := by
  obtain ⟨r, d, ⟨k, hk, h⟩ | h⟩ := gate_cases s
  · obtain ⟨c, l, d', h'⟩ := rxChunk_cases { s with
      readyIn := r, draws := d, hist := s.hist ++ gateEvents k
      pollcnt := pollcntAfter s.pollcnt [k] }
    exact ⟨r, d', .inl ⟨k, c, l, hk, by rw [recvChunk, h, Run.bind_ok, h']; simp [advance]⟩⟩
  · exact ⟨r, d, .inr (by rw [recvChunk, h, Run.bind_raised])⟩

/-! ### Acknowledgements: `RXF` all at once -/

theorem recvFrame_scripted (k l : Nat) (s : State) (rest : List Bool) (f : Frame)
    (more : List Chunk) (h : s.readyIn = answers [k, l] ++ rest)
    (hl : s.linkIn = frameChunks f ++ more) (hk : withinBound s.maxatt [k, l]) :
    recvFrame s = .ok f { s with
      readyIn := rest, linkIn := more, rxf := some f
      hist := s.hist ++ rcvdEvents [k, l] (frameChunks f)
      pollcnt := pollcntAfter s.pollcnt [k, l]
      xcnt := 8
      seq := { s.seq with off := 8 } } := by
  simp only [answers_cons, answers_nil, List.append_nil, List.append_assoc] at h
  simp only [withinBound_cons, withinBound_nil, and_true] at hk
  simp only [frameChunks, List.cons_append, List.nil_append] at hl
  rw [recvFrame, recvChunk_scripted k _ _ _ _ (by simpa using h) (by simpa using hl)
    (by simpa using hk.1), Run.bind_ok, recvChunk_scripted l _ _ _ _ rfl rfl (by simpa using hk.2),
    Run.bind_ok]
  simp [startTransfer, rcvdEvents_cons, frameChunks, frameOfChunks, pollcntAfter_cons _ k [l]]

/-- A timeout before or between the two chunks leaves `RXF` as it was (R112). -/
theorem recvFrame_silent (ks : List Nat) (cs : List Chunk) (s : State) (rest : List Bool)
    (more : List Chunk) (hn : ks.length < 2) (hc : cs.length = ks.length)
    (h : s.readyIn = answers ks ++ (silence s.maxatt ++ rest)) (hl : s.linkIn = cs ++ more)
    (hk : withinBound s.maxatt ks) :
    recvFrame s = .raised .timeout { s with
      readyIn := rest, linkIn := more
      hist := s.hist ++ rcvdEvents ks cs ++ silentEvents s.maxatt
      pollcnt := s.maxatt
      xcnt := BitVec.ofNat 17 (4 * ks.length)
      seq := { s.seq with off := BitVec.ofNat 17 (4 * ks.length) } } := by
  match ks, cs, hn, hc with
  | [], [], _, _ =>
    simp only [answers_nil, List.nil_append] at h hl
    rw [recvFrame, recvChunk_silent _ rest (by simpa using h)]
    simp [startTransfer, ← hl]
  | [k], [c], _, _ =>
    simp only [answers_cons, answers_nil, List.append_nil] at h
    simp only [withinBound_cons, withinBound_nil, and_true] at hk
    rw [recvFrame, recvChunk_scripted k _ _ _ _ (by simpa using h) (by simpa using hl)
      (by simpa using hk), Run.bind_ok, recvChunk_silent _ rest (by simp)]
    simp [startTransfer, rcvdEvents_cons]

/-- What receiving a frame can do, whatever the MODULE answers. -/
theorem recvFrame_cases (s : State) : ∃ r l d ks, withinBound s.maxatt ks ∧
    ((∃ f, ks.length = 2 ∧ recvFrame s = .ok f { s with
      readyIn := r, linkIn := l, draws := d, rxf := some f
      hist := s.hist ++ rcvdEvents ks (frameChunks f)
      pollcnt := pollcntAfter s.pollcnt ks
      xcnt := 8
      seq := { s.seq with off := 8 } }) ∨
    (∃ cs, ks.length < 2 ∧ cs.length = ks.length ∧ recvFrame s = .raised .timeout { s with
      readyIn := r, linkIn := l, draws := d
      hist := s.hist ++ rcvdEvents ks cs ++ silentEvents s.maxatt
      pollcnt := s.maxatt
      xcnt := BitVec.ofNat 17 (4 * ks.length)
      seq := { s.seq with off := BitVec.ofNat 17 (4 * ks.length) } })) := by
  obtain ⟨r, d, ⟨k, c, l, hk, h⟩ | h⟩ := recvChunk_cases (startTransfer s)
  · rw [startTransfer_maxatt] at hk
    obtain ⟨r', d', ⟨k', c', l', hk', h'⟩ | h'⟩ := recvChunk_cases { startTransfer s with
      readyIn := r, linkIn := l, draws := d
      hist := (startTransfer s).hist ++ (gateEvents k ++ [.rx c])
      pollcnt := pollcntAfter (startTransfer s).pollcnt [k]
      xcnt := (startTransfer s).xcnt + 4
      seq := { (startTransfer s).seq with off := (startTransfer s).seq.off + 4 } }
    · refine ⟨r', l', d', [k, k'], by simp [withinBound_cons, hk]; simpa using hk',
        .inl ⟨frameOfChunks c c', rfl, ?_⟩⟩
      rw [recvFrame, h, Run.bind_ok, h', Run.bind_ok]
      simp [startTransfer, rcvdEvents_cons, frameChunks, frameOfChunks, pollcntAfter_cons _ k [k']]
    · refine ⟨r', l, d', [k], by simp [withinBound_cons, hk], .inr ⟨[c], by simp, rfl, ?_⟩⟩
      rw [recvFrame, h, Run.bind_ok, h', Run.bind_raised]
      simp [startTransfer, rcvdEvents_cons]
  · refine ⟨r, s.linkIn, d, [], by simp, .inr ⟨[], by simp, rfl, ?_⟩⟩
    rw [recvFrame, h, Run.bind_raised]
    simp [startTransfer]

/-! ### Payloads: `DBUF` chunk by chunk -/

theorem off_add_four (x : BitVec 17) (n : Nat) (h : x.toNat + 4 * (n + 1) < 2 ^ 17) :
    (x + 4#17).toNat = x.toNat + 4 ∧ (x + 4#17).toNat + 4 * n < 2 ^ 17 := by
  have : (x + 4#17).toNat = x.toNat + 4 := by
    simp only [BitVec.toNat_add, BitVec.toNat_ofNat]; omega
  omega

theorem recvLoop_scripted (n : Nat) (ks : List Nat) (cs : List Chunk) (s : State) (rest : List Bool)
    (more : List Chunk) (hn : ks.length = n) (hc : cs.length = n)
    (h : s.readyIn = answers ks ++ rest) (hl : s.linkIn = cs ++ more)
    (hk : withinBound s.maxatt ks) (ho : s.seq.off.toNat + 4 * n < 2 ^ 17) :
    recvLoop n s = .ok () { s with
      readyIn := rest, linkIn := more
      hist := s.hist ++ rcvdEvents ks cs
      pollcnt := pollcntAfter s.pollcnt ks
      xcnt := s.xcnt + BitVec.ofNat 17 (4 * n)
      seq := { s.seq with off := s.seq.off + BitVec.ofNat 17 (4 * n) }
      dbuf := s.dbuf.writeBytes s.seq.off.toNat (cs.flatMap Chunk.bytes) } := by
  induction n generalizing ks cs s with
  | zero =>
    obtain rfl : ks = [] := by simpa using hn
    obtain rfl : cs = [] := by simpa using hc
    simp only [answers_nil, List.nil_append] at h hl
    simp [recvLoop, ← h, ← hl, Memory.writeBytes]
  | succ n ih =>
    obtain ⟨k, ks, rfl⟩ : ∃ k ks', ks = k :: ks' := by cases ks <;> simp at hn ⊢
    obtain ⟨c, cs, rfl⟩ : ∃ k ks', cs = k :: ks' := by cases cs <;> simp at hc ⊢
    rw [answers_cons, List.append_assoc] at h
    rw [withinBound_cons] at hk
    have ho' := off_add_four _ _ ho
    rw [recvLoop, recvChunk_scripted k s _ c _ h hl hk.1, Run.bind_ok,
      ih ks cs _ (by simpa using hn) (by simpa using hc)]
    · simp [rcvdEvents_cons, pollcntAfter_cons _ k ks, chunk_step, Memory.writeBytes_append, ho'.1]
    · rfl
    · rfl
    · exact hk.2
    · exact ho'.2

theorem recvLoop_silent (n : Nat) (ks : List Nat) (cs : List Chunk) (s : State) (rest : List Bool)
    (more : List Chunk) (hn : ks.length < n) (hc : cs.length = ks.length)
    (h : s.readyIn = answers ks ++ (silence s.maxatt ++ rest)) (hl : s.linkIn = cs ++ more)
    (hk : withinBound s.maxatt ks) (ho : s.seq.off.toNat + 4 * n < 2 ^ 17) :
    recvLoop n s = .raised .timeout { s with
      readyIn := rest, linkIn := more
      hist := s.hist ++ rcvdEvents ks cs ++ silentEvents s.maxatt
      pollcnt := s.maxatt
      xcnt := s.xcnt + BitVec.ofNat 17 (4 * ks.length)
      seq := { s.seq with off := s.seq.off + BitVec.ofNat 17 (4 * ks.length) }
      dbuf := s.dbuf.writeBytes s.seq.off.toNat (cs.flatMap Chunk.bytes) } := by
  induction n generalizing ks cs s with
  | zero => simp at hn
  | succ n ih =>
    match ks, cs, hc with
    | [], [], _ =>
      simp only [answers_nil, List.nil_append] at h hl
      simp [recvLoop, recvChunk_silent s rest h, ← hl, Memory.writeBytes]
    | k :: ks, c :: cs, hc =>
      rw [answers_cons, List.append_assoc] at h
      rw [withinBound_cons] at hk
      have ho' := off_add_four _ _ ho
      rw [recvLoop, recvChunk_scripted k s _ c _ h hl hk.1, Run.bind_ok,
        ih ks cs _ (by simpa using hn) (by simpa using hc)]
      · simp [rcvdEvents_cons, chunk_step, Memory.writeBytes_append, ho'.1]
      · rfl
      · rfl
      · exact hk.2
      · exact ho'.2

/-- What Receive's loop can do, whatever the MODULE answers. -/
theorem recvLoop_cases (n : Nat) (s : State) (ho : s.seq.off.toNat + 4 * n < 2 ^ 17) :
    ∃ r l d ks cs, withinBound s.maxatt ks ∧ cs.length = ks.length ∧
    ((ks.length = n ∧ recvLoop n s = .ok () { s with
      readyIn := r, linkIn := l, draws := d
      hist := s.hist ++ rcvdEvents ks cs
      pollcnt := pollcntAfter s.pollcnt ks
      xcnt := s.xcnt + BitVec.ofNat 17 (4 * n)
      seq := { s.seq with off := s.seq.off + BitVec.ofNat 17 (4 * n) }
      dbuf := s.dbuf.writeBytes s.seq.off.toNat (cs.flatMap Chunk.bytes) }) ∨
    (ks.length < n ∧ recvLoop n s = .raised .timeout { s with
      readyIn := r, linkIn := l, draws := d
      hist := s.hist ++ rcvdEvents ks cs ++ silentEvents s.maxatt
      pollcnt := s.maxatt
      xcnt := s.xcnt + BitVec.ofNat 17 (4 * ks.length)
      seq := { s.seq with off := s.seq.off + BitVec.ofNat 17 (4 * ks.length) }
      dbuf := s.dbuf.writeBytes s.seq.off.toNat (cs.flatMap Chunk.bytes) })) := by
  induction n generalizing s with
  | zero =>
    exact ⟨s.readyIn, s.linkIn, s.draws, [], [], by simp, rfl, .inl ⟨rfl, by
      simp [recvLoop, Memory.writeBytes]⟩⟩
  | succ n ih =>
    have ho' := off_add_four _ _ ho
    obtain ⟨r, d, ⟨k, c, l, hk, h⟩ | h⟩ := recvChunk_cases s
    · obtain ⟨r', l', d', ks, cs, hb, hc, h'⟩ := ih { s with
        readyIn := r, linkIn := l, draws := d
        hist := s.hist ++ (gateEvents k ++ [.rx c])
        pollcnt := pollcntAfter s.pollcnt [k]
        xcnt := s.xcnt + 4
        seq := { s.seq with off := s.seq.off + 4 }
        dbuf := s.dbuf.writeBytes s.seq.off.toNat c.bytes } ho'.2
      refine ⟨r', l', d', k :: ks, c :: cs, withinBound_cons.2 ⟨hk, hb⟩, by simpa using hc, ?_⟩
      rcases h' with ⟨hn, h'⟩ | ⟨hn, h'⟩
      · left; refine ⟨by simpa using hn, ?_⟩
        rw [recvLoop, h, Run.bind_ok, h']
        simp [rcvdEvents_cons, pollcntAfter_cons _ k ks, chunk_step, Memory.writeBytes_append, ho'.1]
      · right; refine ⟨by simpa using hn, ?_⟩
        rw [recvLoop, h, Run.bind_ok, h']
        simp [rcvdEvents_cons, chunk_step, Memory.writeBytes_append, ho'.1]
    · exact ⟨r, s.linkIn, d, [], [], by simp, rfl, .inr ⟨by simp, by
        simp [recvLoop, h, Memory.writeBytes]⟩⟩

theorem recvPayload_scripted (n : Nat) (ks : List Nat) (cs : List Chunk) (s : State)
    (rest : List Bool) (more : List Chunk) (hn : ks.length = n) (hc : cs.length = n)
    (h : s.readyIn = answers ks ++ rest) (hl : s.linkIn = cs ++ more)
    (hk : withinBound s.maxatt ks) (ho : 4 * n < 2 ^ 17) :
    recvPayload (4 * n) s = .ok () { s with
      readyIn := rest, linkIn := more
      hist := s.hist ++ rcvdEvents ks cs
      pollcnt := pollcntAfter s.pollcnt ks
      xcnt := BitVec.ofNat 17 (4 * n)
      seq := { s.seq with off := BitVec.ofNat 17 (4 * n) }
      dbuf := s.dbuf.writeBytes 0 (cs.flatMap Chunk.bytes)
      dlen := BitVec.ofNat 17 (4 * n), dvalid := true } := by
  rw [recvPayload, show 4 * n / Config.chunk = n by simp [Config.chunk],
    recvLoop_scripted n ks cs _ rest more hn hc (by simpa using h) (by simpa using hl)
      (by simpa using hk) (by simpa using ho)]
  simp [startTransfer]

theorem recvPayload_silent (n : Nat) (ks : List Nat) (cs : List Chunk) (s : State)
    (rest : List Bool) (more : List Chunk) (hn : ks.length < n) (hc : cs.length = ks.length)
    (h : s.readyIn = answers ks ++ (silence s.maxatt ++ rest)) (hl : s.linkIn = cs ++ more)
    (hk : withinBound s.maxatt ks) (ho : 4 * n < 2 ^ 17) :
    recvPayload (4 * n) s = .raised .timeout { s with
      readyIn := rest, linkIn := more
      hist := s.hist ++ rcvdEvents ks cs ++ silentEvents s.maxatt
      pollcnt := s.maxatt
      xcnt := BitVec.ofNat 17 (4 * ks.length)
      seq := { s.seq with off := BitVec.ofNat 17 (4 * ks.length) }
      dbuf := s.dbuf.writeBytes 0 (cs.flatMap Chunk.bytes), dvalid := false } := by
  rw [recvPayload, show 4 * n / Config.chunk = n by simp [Config.chunk],
    recvLoop_silent n ks cs _ rest more hn hc (by simpa using h) (by simpa using hl)
      (by simpa using hk) (by simpa using ho)]
  simp [startTransfer]

/-- What a payload Receive can do, whatever the MODULE answers. -/
theorem recvPayload_cases (n : Nat) (s : State) (ho : 4 * n < 2 ^ 17) :
    ∃ r l d ks cs, withinBound s.maxatt ks ∧ cs.length = ks.length ∧
    ((ks.length = n ∧ recvPayload (4 * n) s = .ok () { s with
      readyIn := r, linkIn := l, draws := d
      hist := s.hist ++ rcvdEvents ks cs
      pollcnt := pollcntAfter s.pollcnt ks
      xcnt := BitVec.ofNat 17 (4 * n)
      seq := { s.seq with off := BitVec.ofNat 17 (4 * n) }
      dbuf := s.dbuf.writeBytes 0 (cs.flatMap Chunk.bytes)
      dlen := BitVec.ofNat 17 (4 * n), dvalid := true }) ∨
    (ks.length < n ∧ recvPayload (4 * n) s = .raised .timeout { s with
      readyIn := r, linkIn := l, draws := d
      hist := s.hist ++ rcvdEvents ks cs ++ silentEvents s.maxatt
      pollcnt := s.maxatt
      xcnt := BitVec.ofNat 17 (4 * ks.length)
      seq := { s.seq with off := BitVec.ofNat 17 (4 * ks.length) }
      dbuf := s.dbuf.writeBytes 0 (cs.flatMap Chunk.bytes), dvalid := false })) := by
  obtain ⟨r, l, d, ks, cs, hb, hc, h⟩ :=
    recvLoop_cases n { startTransfer s with dvalid := false } (by simpa using ho)
  refine ⟨r, l, d, ks, cs, by simpa using hb, hc, ?_⟩
  rw [recvPayload, show 4 * n / Config.chunk = n by simp [Config.chunk]]
  rcases h with ⟨hn, h⟩ | ⟨hn, h⟩
  · left; refine ⟨hn, ?_⟩; rw [h]; simp [startTransfer]
  · right; refine ⟨hn, ?_⟩; rw [h]; simp [startTransfer]

end Sys2Proof.Machine
end

