-- ==== Sys2Proof/Laws/Exchange.lean ====
section
/-! SUPPORT. What an acknowledgement, `Transact` (R112) and the exchanges with a payload can do, for a
scripted MODULE and for every MODULE. -/

namespace Sys2Proof.Machine

/-! ### Chunks of a buffer -/

theorem chunksOf_length (bs : List Byte) : (chunksOf bs).length = bs.length / 4 := by
  fun_induction chunksOf bs with
  | case1 a b c d rest ih => simp [ih]; omega
  | case2 bs h =>
    match bs, h with
    | [], _ | [_], _ | [_, _], _ | [_, _, _], _ => simp
    | a :: b :: c :: d :: rest, h => exact absurd rfl (h a b c d rest)

theorem chunksOf_bytes (bs : List Byte) (h : bs.length % 4 = 0) :
    (chunksOf bs).flatMap Chunk.bytes = bs := by
  fun_induction chunksOf bs with
  | case1 a b c d rest ih =>
    simp only [List.length_cons] at h
    simp [Chunk.bytes, ih (by omega)]
  | case2 bs hn =>
    match bs, h, hn with
    | [], _, _ => rfl
    | [_], h, _ | [_, _], h, _ | [_, _, _], h, _ => simp at h
    | a :: b :: c :: d :: rest, _, hn => exact absurd rfl (hn a b c d rest)

theorem chunksOf_dbufBytes_length (s : State) (n : Nat) :
    (chunksOf (dbufBytes s n)).length = n / 4 := by simp [chunksOf_length]

@[simp] theorem frameChunks_length (f : Frame) : (frameChunks f).length = 2 := rfl

/-! ### Send from offset 0 -/

theorem sendChunks_scripted (cs : List Chunk) (ks : List Nat) (s : State) (rest : List Bool)
    (hl : ks.length = cs.length) (h : s.readyIn = answers ks ++ rest)
    (hk : withinBound s.maxatt ks) :
    sendChunks cs s = .ok () { s with
      readyIn := rest
      hist := s.hist ++ sentEvents ks cs
      pollcnt := pollcntAfter s.pollcnt ks
      xcnt := BitVec.ofNat 17 (4 * cs.length)
      seq := { s.seq with off := BitVec.ofNat 17 (4 * cs.length) } } := by
  rw [sendChunks, sendLoop_scripted cs ks _ rest hl (by simpa using h) (by simpa using hk)]
  simp [startTransfer]

theorem sendChunks_silent (cs : List Chunk) (ks : List Nat) (s : State) (rest : List Bool)
    (hl : ks.length < cs.length) (h : s.readyIn = answers ks ++ (silence s.maxatt ++ rest))
    (hk : withinBound s.maxatt ks) :
    sendChunks cs s = .raised .timeout { s with
      readyIn := rest
      hist := s.hist ++ sentEvents ks cs ++ silentEvents s.maxatt
      pollcnt := s.maxatt
      xcnt := BitVec.ofNat 17 (4 * ks.length)
      seq := { s.seq with off := BitVec.ofNat 17 (4 * ks.length) } } := by
  rw [sendChunks, sendLoop_silent cs ks _ rest hl (by simpa using h) (by simpa using hk)]
  simp [startTransfer]

/-- What Send can do, whatever the MODULE answers. -/
theorem sendChunks_cases (cs : List Chunk) (s : State) : ∃ r d ks, withinBound s.maxatt ks ∧
    ((ks.length = cs.length ∧ sendChunks cs s = .ok () { s with
      readyIn := r, draws := d, hist := s.hist ++ sentEvents ks cs
      pollcnt := pollcntAfter s.pollcnt ks
      xcnt := BitVec.ofNat 17 (4 * cs.length)
      seq := { s.seq with off := BitVec.ofNat 17 (4 * cs.length) } }) ∨
    (ks.length < cs.length ∧ sendChunks cs s = .raised .timeout { s with
      readyIn := r, draws := d, hist := s.hist ++ sentEvents ks cs ++ silentEvents s.maxatt
      pollcnt := s.maxatt
      xcnt := BitVec.ofNat 17 (4 * ks.length)
      seq := { s.seq with off := BitVec.ofNat 17 (4 * ks.length) } })) := by
  obtain ⟨r, d, ks, hb, h⟩ := sendLoop_cases cs (startTransfer s)
  refine ⟨r, d, ks, by simpa using hb, ?_⟩
  rcases h with ⟨hl, h⟩ | ⟨hl, h⟩
  · left; refine ⟨hl, ?_⟩; rw [sendChunks, h]; simp [startTransfer]
  · right; refine ⟨hl, ?_⟩; rw [sendChunks, h]; simp [startTransfer]

/-! ### Acknowledgements -/

/-- The judgement of a received acknowledgement, with the state it leaves. -/
theorem recvAck_scripted (rx val : Phase) (e : Byte) (k l : Nat) (s : State) (rest : List Bool)
    (f : Frame) (more : List Chunk) (h : s.readyIn = answers [k, l] ++ rest)
    (hl : s.linkIn = frameChunks f ++ more) (hk : withinBound s.maxatt [k, l]) :
    recvAck rx val e s =
      let t : State := { s with
        readyIn := rest, linkIn := more, rxf := some f
        hist := s.hist ++ rcvdEvents [k, l] (frameChunks f)
        pollcnt := pollcntAfter s.pollcnt [k, l]
        xcnt := 8
        seq := { s.seq with phase := val, off := 8 } }
      match validate f e with
      | none => .ok f t
      | some err => .raised err t := by
  rw [recvAck, recvFrame_scripted k l _ rest f more (by simpa using h) (by simpa using hl)
    (by simpa using hk), Run.bind_ok]
  cases validate f e <;> simp [setPhase]

theorem recvAck_silent (rx val : Phase) (e : Byte) (ks : List Nat) (cs : List Chunk) (s : State)
    (rest : List Bool) (more : List Chunk) (hn : ks.length < 2) (hc : cs.length = ks.length)
    (h : s.readyIn = answers ks ++ (silence s.maxatt ++ rest)) (hl : s.linkIn = cs ++ more)
    (hk : withinBound s.maxatt ks) :
    recvAck rx val e s = .raised .timeout { s with
      readyIn := rest, linkIn := more
      hist := s.hist ++ rcvdEvents ks cs ++ silentEvents s.maxatt
      pollcnt := s.maxatt
      xcnt := BitVec.ofNat 17 (4 * ks.length)
      seq := { s.seq with phase := rx, off := BitVec.ofNat 17 (4 * ks.length) } } := by
  rw [recvAck, recvFrame_silent ks cs _ rest more hn hc (by simpa using h) (by simpa using hl)
    (by simpa using hk), Run.bind_raised]
  simp [setPhase]

/-- What receiving an acknowledgement can do, whatever the MODULE answers. -/
theorem recvAck_cases (rx val : Phase) (e : Byte) (s : State) :
    ∃ r l d p x q ks, withinBound s.maxatt ks ∧ x.toNat % 4 = 0 ∧ x.toNat ≤ 8 ∧
    ((∃ f, ks.length = 2 ∧
      recvAck rx val e s =
        let t : State := { s with
          readyIn := r, linkIn := l, draws := d, pollcnt := p, xcnt := x, seq := q
          rxf := some f, hist := s.hist ++ rcvdEvents ks (frameChunks f) }
        match validate f e with
        | none => .ok f t
        | some err => .raised err t) ∨
    (∃ cs, ks.length < 2 ∧ cs.length = ks.length ∧
      recvAck rx val e s = .raised .timeout { s with
        readyIn := r, linkIn := l, draws := d, pollcnt := p, xcnt := x, seq := q
        hist := s.hist ++ rcvdEvents ks cs ++ silentEvents s.maxatt })) := by
  obtain ⟨r, l, d, ks, hb, h⟩ := recvFrame_cases (setPhase rx s)
  rcases h with ⟨f, hn, h⟩ | ⟨cs, hn, hc, h⟩
  · refine ⟨r, l, d, pollcntAfter s.pollcnt ks, 8, { s.seq with phase := val, off := 8 }, ks,
      by simpa using hb, by decide, by decide, .inl ⟨f, hn, ?_⟩⟩
    rw [recvAck, h, Run.bind_ok]
    cases validate f e <;> simp [setPhase]
  · refine ⟨r, l, d, s.maxatt, BitVec.ofNat 17 (4 * ks.length),
      { s.seq with phase := rx, off := BitVec.ofNat 17 (4 * ks.length) }, ks,
      by simpa using hb, ?_, ?_, .inr ⟨cs, hn, hc, ?_⟩⟩
    · simp only [BitVec.toNat_ofNat]; omega
    · simp only [BitVec.toNat_ofNat]; omega
    · rw [recvAck, h, Run.bind_raised]; simp [setPhase]

/-! ### Transact (R112) -/

/-- A MODULE that lets the command through and answers a frame: validated, or the frame's error. -/
theorem transact_scripted (cmd : Command) (a : Args) (k0 k1 k2 k3 : Nat) (s : State)
    (rest : List Bool) (f : Frame) (more : List Chunk)
    (h : s.readyIn = answers [k0, k1, k2, k3] ++ rest)
    (hl : s.linkIn = frameChunks f ++ more) (hk : withinBound s.maxatt [k0, k1, k2, k3]) :
    transact cmd a s =
      let t : State := { s with
        txf := some (buildFrame (s.cfg.opcode cmd) a), rxf := some f
        readyIn := rest, linkIn := more
        hist := s.hist ++
          commandEvents [k0, k1, k2, k3] (buildFrame (s.cfg.opcode cmd) a) f
        pollcnt := pollcntAfter s.pollcnt [k0, k1, k2, k3]
        xcnt := 8
        seq := { s.seq with phase := .valAck1, off := 8 } }
      match validate f (s.cfg.ackOf cmd) with
      | none => .ok f t
      | some e => .raised e t := by
  have hs : answers [k0, k1, k2, k3] = answers [k0, k1] ++ answers [k2, k3] := by
    simp [answers_cons]
  simp only [withinBound_cons, withinBound_nil, and_true] at hk
  rw [hs, List.append_assoc] at h
  rw [transact, sendChunks_scripted _ [k0, k1] _ (answers [k2, k3] ++ rest) rfl (by simpa using h)
    (by simp only [setPhase_maxatt, buildTxf_maxatt, withinBound_cons, withinBound_nil]; tauto),
    Run.bind_ok]
  rw [recvAck_scripted .rxAck1 .valAck1 _ k2 k3 _ rest f more rfl (by simpa using hl)
    (by simp only [setPhase_maxatt, buildTxf_maxatt, withinBound_cons, withinBound_nil]; tauto)]
  simp only [setPhase, buildTxf]
  cases validate f (s.cfg.ackOf cmd) <;>
    simp [commandEvents, ← pollcntAfter_append]

/-- A command that times out at chunk `ks.length` of its four (R112, R165). -/
theorem transact_silent (cmd : Command) (a : Args) (ks : List Nat) (s : State) (rest : List Bool)
    (cs more : List Chunk) (hn : ks.length < 4) (hc : cs.length = ks.length - 2)
    (h : s.readyIn = answers ks ++ (silence s.maxatt ++ rest)) (hl : s.linkIn = cs ++ more)
    (hk : withinBound s.maxatt ks) :
    ∃ q, transact cmd a s = .raised .timeout { s with
      txf := some (buildFrame (s.cfg.opcode cmd) a)
      readyIn := rest, linkIn := more
      hist := s.hist ++
        sentEvents (ks.take 2) (frameChunks (buildFrame (s.cfg.opcode cmd) a)) ++
        rcvdEvents (ks.drop 2) cs ++ silentEvents s.maxatt
      pollcnt := s.maxatt
      xcnt := BitVec.ofNat 17 (4 * (if ks.length < 2 then ks.length else ks.length - 2))
      seq := q } := by
  by_cases h2 : ks.length < 2
  · obtain rfl : cs = [] := List.eq_nil_of_length_eq_zero (by omega)
    refine ⟨{ s.seq with phase := .txCmd, off := BitVec.ofNat 17 (4 * ks.length) }, ?_⟩
    rw [transact, sendChunks_silent _ ks _ rest (by simpa using h2) (by simpa using h)
      (by simpa using hk), Run.bind_raised]
    simp only [List.nil_append] at hl
    simp only [if_pos h2, List.take_of_length_le (Nat.le_of_lt h2), rcvdEvents_nil_right,
      List.append_nil]
    simp only [setPhase, buildTxf, hl]
  · obtain ⟨k0, k1, ls, rfl⟩ : ∃ k0 k1 ls, ks = k0 :: k1 :: ls := by
      match ks, h2 with
      | k0 :: k1 :: ls, _ => exact ⟨k0, k1, ls, rfl⟩
      | [_], h2 => simp at h2
      | [], h2 => simp at h2
    rw [show k0 :: k1 :: ls = [k0, k1] ++ ls from rfl, answers_append, List.append_assoc] at h
    rw [show k0 :: k1 :: ls = [k0, k1] ++ ls from rfl, withinBound_append] at hk
    refine ⟨{ s.seq with phase := .rxAck1, off := BitVec.ofNat 17 (4 * ls.length) }, ?_⟩
    rw [transact, sendChunks_scripted _ [k0, k1] _ (answers ls ++ (silence s.maxatt ++ rest)) rfl
      (by simpa using h) (by simpa using hk.1), Run.bind_ok,
      recvAck_silent .rxAck1 .valAck1 _ ls cs _ rest more (by simp at hn; omega) (by simpa using hc)
        rfl (by simpa using hl) (by simpa using hk.2)]
    simp only [if_neg h2]
    simp [setPhase, buildTxf]

/-- What `Transact` can do, whatever the MODULE answers. -/
theorem transact_cases (cmd : Command) (a : Args) (s : State) :
    ∃ r l d p x q ks, withinBound s.maxatt ks ∧ x.toNat % 4 = 0 ∧ x.toNat ≤ 8 ∧
    ((∃ f, ks.length = 4 ∧
      transact cmd a s =
        let t : State := { s with
          readyIn := r, linkIn := l, draws := d, pollcnt := p, xcnt := x, seq := q
          txf := some (buildFrame (s.cfg.opcode cmd) a), rxf := some f
          hist := s.hist ++ commandEvents ks (buildFrame (s.cfg.opcode cmd) a) f }
        match validate f (s.cfg.ackOf cmd) with
        | none => .ok f t
        | some e => .raised e t) ∨
    (∃ cs, ks.length < 4 ∧ cs.length = ks.length - 2 ∧
      transact cmd a s = .raised .timeout { s with
        readyIn := r, linkIn := l, draws := d, pollcnt := p, xcnt := x, seq := q
        txf := some (buildFrame (s.cfg.opcode cmd) a)
        hist := s.hist ++ (sentEvents (ks.take 2) (frameChunks (buildFrame (s.cfg.opcode cmd) a)) ++
          rcvdEvents (ks.drop 2) cs ++ silentEvents s.maxatt) })) := by
  obtain ⟨r, d, ks, hb, h⟩ := sendChunks_cases (frameChunks (buildFrame (s.cfg.opcode cmd) a))
    (setPhase .txCmd (buildTxf (s.cfg.opcode cmd) a (setPhase .build s)))
  simp only [setPhase_maxatt, buildTxf_maxatt] at hb
  rcases h with ⟨hn, h⟩ | ⟨hn, h⟩
  · rw [frameChunks_length] at hn
    match ks, hn with
    | [k0, k1], _ =>
    obtain ⟨r', l', d', p, x, q, ls, hb', hx, hx8, h'⟩ := recvAck_cases .rxAck1 .valAck1
      (s.cfg.ackOf cmd) { setPhase .txCmd (buildTxf (s.cfg.opcode cmd) a (setPhase .build s)) with
        readyIn := r, draws := d
        hist := s.hist ++ sentEvents [k0, k1] (frameChunks (buildFrame (s.cfg.opcode cmd) a))
        pollcnt := pollcntAfter s.pollcnt [k0, k1], xcnt := 8
        seq := { s.seq with phase := .txCmd, off := 8 } }
    refine ⟨r', l', d', p, x, q, [k0, k1] ++ ls, withinBound_append.2 ⟨hb, by simpa using hb'⟩,
      hx, hx8, ?_⟩
    rcases h' with ⟨f, hn', h'⟩ | ⟨cs, hn', hc, h'⟩
    · left; refine ⟨f, by simp [hn'], ?_⟩
      rw [transact, h, Run.bind_ok]
      refine Eq.trans h' ?_
      simp only [setPhase, buildTxf]
      cases validate f (s.cfg.ackOf cmd) <;> simp [commandEvents]
    · right; refine ⟨cs, by simp; omega, by simp [hc], ?_⟩
      rw [transact, h, Run.bind_ok]
      refine Eq.trans h' ?_
      simp [setPhase, buildTxf]
  · rw [frameChunks_length] at hn
    refine ⟨r, s.linkIn, d, s.maxatt, BitVec.ofNat 17 (4 * ks.length),
      { s.seq with phase := .txCmd, off := BitVec.ofNat 17 (4 * ks.length) }, ks, hb, ?_, ?_,
      .inr ⟨[], by omega, by simp; omega, ?_⟩⟩
    · simp only [BitVec.toNat_ofNat]; omega
    · simp only [BitVec.toNat_ofNat]; omega
    · rw [transact, h, Run.bind_raised]
      simp [setPhase, buildTxf, List.take_of_length_le (Nat.le_of_lt hn)]

end Sys2Proof.Machine
end

