-- ==== Sys2Proof/Laws/History.lean ====
section
/-! SUPPORT. What a stretch of history holds: the chunks sent and received in it, its polls, and that
its transfers are gated, for the events every gate and every transfer leaves. -/

namespace Sys2Proof.Machine

/-! ### Appending -/

@[simp] theorem sent_append (d e : List Event) : sent (d ++ e) = sent d ++ sent e := by
  induction d with
  | nil => rfl
  | cons x d ih => cases x <;> simp [sent, ih]

@[simp] theorem received_append (d e : List Event) :
    received (d ++ e) = received d ++ received e := by
  induction d with
  | nil => rfl
  | cons x d ih => cases x <;> simp [received, ih]

@[simp] theorem polls_append (d e : List Event) : polls (d ++ e) = polls d + polls e := by
  induction d with
  | nil => simp [polls]
  | cons x d ih => cases x <;> simp [polls, ih]; omega

/-- A gated stretch stays gated after anything. -/
theorem gatedFrom_of_gated (b : Bool) (d : List Event) (h : gated d = true) :
    gatedFrom b d = true := by
  cases b with
  | false => exact h
  | true => cases d with
    | nil => rfl
    | cons x d => cases x <;> simp_all [gated, gatedFrom]

theorem gatedFrom_append (b : Bool) (d e : List Event) (hd : gatedFrom b d = true)
    (he : gated e = true) : gatedFrom b (d ++ e) = true := by
  induction d generalizing b with
  | nil => exact gatedFrom_of_gated b e he
  | cons x d ih => cases x with
    | poll r => exact ih r hd
    | tx c =>
      simp only [gatedFrom, List.cons_append, Bool.and_eq_true] at hd ⊢
      exact ⟨hd.1, ih false hd.2⟩
    | rx c =>
      simp only [gatedFrom, List.cons_append, Bool.and_eq_true] at hd ⊢
      exact ⟨hd.1, ih false hd.2⟩

/-- Gated stretches one after the other are gated. -/
theorem gated_append {d e : List Event} (hd : gated d = true) (he : gated e = true) :
    gated (d ++ e) = true := gatedFrom_append false d e hd he

/-! ### A gate -/

@[simp] theorem sent_gateEvents (k : Nat) : sent (gateEvents k) = [] := by
  induction k with
  | zero => rfl
  | succ k ih => simpa [gateEvents_succ, sent] using ih

@[simp] theorem received_gateEvents (k : Nat) : received (gateEvents k) = [] := by
  induction k with
  | zero => rfl
  | succ k ih => simpa [gateEvents_succ, received] using ih

@[simp] theorem polls_gateEvents (k : Nat) : polls (gateEvents k) = k + 1 := by
  induction k with
  | zero => rfl
  | succ k ih => simp [gateEvents_succ, polls, ih]

/-- After a gate one transfer is gated. -/
theorem gated_gateEvents_append (k : Nat) (d : List Event) (h : gatedFrom true d = true) :
    gated (gateEvents k ++ d) = true := by
  unfold gated
  generalize false = b
  induction k generalizing b with
  | zero => simpa [gatedFrom] using h
  | succ k ih => simpa [gateEvents_succ, gatedFrom] using ih false

@[simp] theorem gated_gateEvents (k : Nat) : gated (gateEvents k) = true := by
  simpa using gated_gateEvents_append k [] rfl

@[simp] theorem sent_replicate_poll (n : Nat) (b : Bool) :
    sent (List.replicate n (.poll b)) = [] := by
  induction n with
  | zero => rfl
  | succ n ih => simpa [List.replicate_succ, sent] using ih

@[simp] theorem received_replicate_poll (n : Nat) (b : Bool) :
    received (List.replicate n (.poll b)) = [] := by
  induction n with
  | zero => rfl
  | succ n ih => simpa [List.replicate_succ, received] using ih

@[simp] theorem polls_replicate_poll (n : Nat) (b : Bool) :
    polls (List.replicate n (.poll b)) = n := by
  induction n with
  | zero => rfl
  | succ n ih => simp [List.replicate_succ, polls, ih]

@[simp] theorem gated_replicate_poll (n : Nat) (b : Bool) :
    gated (List.replicate n (.poll b)) = true := by
  unfold gated
  generalize false = r
  induction n generalizing r with
  | zero => rfl
  | succ n ih => simpa [List.replicate_succ, gatedFrom] using ih b

@[simp] theorem sent_silentEvents (m : BitVec 16) : sent (silentEvents m) = [] := by
  simp [silentEvents]
@[simp] theorem received_silentEvents (m : BitVec 16) : received (silentEvents m) = [] := by
  simp [silentEvents]
@[simp] theorem polls_silentEvents (m : BitVec 16) : polls (silentEvents m) = m.toNat + 1 := by
  simp [silentEvents]
@[simp] theorem gated_silentEvents (m : BitVec 16) : gated (silentEvents m) = true := by
  simp [silentEvents]

/-! ### A transfer -/

theorem sent_sentEvents (ks : List Nat) (cs : List Chunk) :
    sent (sentEvents ks cs) = cs.take ks.length := by
  induction ks generalizing cs with
  | nil => simp [sent]
  | cons k ks ih => cases cs with
    | nil => simp [sent]
    | cons c cs => simp [sentEvents_cons, sent, ih]

@[simp] theorem received_sentEvents (ks : List Nat) (cs : List Chunk) :
    received (sentEvents ks cs) = [] := by
  induction ks generalizing cs with
  | nil => simp [received]
  | cons k ks ih => cases cs with
    | nil => simp [received]
    | cons c cs => simp [sentEvents_cons, received, ih]

theorem received_rcvdEvents (ks : List Nat) (cs : List Chunk) :
    received (rcvdEvents ks cs) = cs.take ks.length := by
  induction ks generalizing cs with
  | nil => simp [received]
  | cons k ks ih => cases cs with
    | nil => simp [received]
    | cons c cs => simp [rcvdEvents_cons, received, ih]

@[simp] theorem sent_rcvdEvents (ks : List Nat) (cs : List Chunk) :
    sent (rcvdEvents ks cs) = [] := by
  induction ks generalizing cs with
  | nil => simp [sent]
  | cons k ks ih => cases cs with
    | nil => simp [sent]
    | cons c cs => simp [rcvdEvents_cons, sent, ih]

@[simp] theorem gated_sentEvents (ks : List Nat) (cs : List Chunk) :
    gated (sentEvents ks cs) = true := by
  induction ks generalizing cs with
  | nil => simp [gated, gatedFrom]
  | cons k ks ih => cases cs with
    | nil => simp [gated, gatedFrom]
    | cons c cs =>
      rw [sentEvents_cons]
      exact gated_append (gated_gateEvents_append k _ rfl) (ih cs)

@[simp] theorem gated_rcvdEvents (ks : List Nat) (cs : List Chunk) :
    gated (rcvdEvents ks cs) = true := by
  induction ks generalizing cs with
  | nil => simp [gated, gatedFrom]
  | cons k ks ih => cases cs with
    | nil => simp [gated, gatedFrom]
    | cons c cs =>
      rw [rcvdEvents_cons]
      exact gated_append (gated_gateEvents_append k _ rfl) (ih cs)

/-- At most `m + 1` polls before every chunk sent, and at least one. -/
theorem polls_sentEvents (m : BitVec 16) (ks : List Nat) (cs : List Chunk)
    (hb : withinBound m ks) (hl : ks.length ≤ cs.length) :
    ks.length ≤ polls (sentEvents ks cs) ∧
      polls (sentEvents ks cs) ≤ ks.length * (m.toNat + 1) := by
  induction ks generalizing cs with
  | nil => simp [polls]
  | cons k ks ih => cases cs with
    | nil => simp at hl
    | cons c cs =>
      rw [withinBound_cons] at hb
      have := ih cs hb.2 (by simpa using hl)
      simp only [sentEvents_cons, polls_append, polls_gateEvents, polls, List.length_cons,
        Nat.add_mul]
      omega

/-- At most `m + 1` polls before every chunk received, and at least one. -/
theorem polls_rcvdEvents (m : BitVec 16) (ks : List Nat) (cs : List Chunk)
    (hb : withinBound m ks) (hl : ks.length ≤ cs.length) :
    ks.length ≤ polls (rcvdEvents ks cs) ∧
      polls (rcvdEvents ks cs) ≤ ks.length * (m.toNat + 1) := by
  induction ks generalizing cs with
  | nil => simp [polls]
  | cons k ks ih => cases cs with
    | nil => simp at hl
    | cons c cs =>
      rw [withinBound_cons] at hb
      have := ih cs hb.2 (by simpa using hl)
      simp only [rcvdEvents_cons, polls_append, polls_gateEvents, polls, List.length_cons,
        Nat.add_mul]
      omega

/-! ### A command and its acknowledgement -/

@[simp] theorem gated_commandEvents (ks : List Nat) (c f : Frame) :
    gated (commandEvents ks c f) = true := by simp [commandEvents, gated_append]

/-- A command whose four gates passed sent its two chunks and received two. -/
theorem sent_commandEvents (ks : List Nat) (c f : Frame) (h : ks.length = 4) :
    sent (commandEvents ks c f) = frameChunks c := by
  have : min 2 ks.length = 2 := by omega
  simp [commandEvents, sent_sentEvents, this, frameChunks]

theorem received_commandEvents (ks : List Nat) (c f : Frame) (h : ks.length = 4) :
    received (commandEvents ks c f) = frameChunks f := by
  have : ks.length - 2 = 2 := by omega
  simp [commandEvents, received_rcvdEvents, this, frameChunks]

theorem withinBound_take {m : BitVec 16} {ks : List Nat} (n : Nat) (h : withinBound m ks) :
    withinBound m (ks.take n) := fun k hk => h k (List.mem_of_mem_take hk)
theorem withinBound_drop {m : BitVec 16} {ks : List Nat} (n : Nat) (h : withinBound m ks) :
    withinBound m (ks.drop n) := fun k hk => h k (List.mem_of_mem_drop hk)

theorem polls_commandEvents (m : BitVec 16) (ks : List Nat) (c f : Frame) (hb : withinBound m ks)
    (h : ks.length = 4) : polls (commandEvents ks c f) ≤ 4 * (m.toNat + 1) := by
  have h1 := (polls_sentEvents m (ks.take 2) (frameChunks c) (withinBound_take 2 hb)
    (by simp [frameChunks])).2
  have h2 := (polls_rcvdEvents m (ks.drop 2) (frameChunks f) (withinBound_drop 2 hb)
    (by simp [frameChunks]; omega)).2
  have e1 : (ks.take 2).length = 2 := by simp [h]
  have e2 : (ks.drop 2).length = 2 := by simp [h]
  rw [e1] at h1
  rw [e2] at h2
  simp only [commandEvents, polls_append]
  omega

/-! ### How much a stretch moves, and with how many polls (R104, R210) -/

/-- A stretch of `k` chunks moved, each after a gate that succeeded within the bound. -/
def Moves (m : BitVec 16) (k : Nat) (d : List Event) : Prop :=
  (sent d).length + (received d).length = k ∧ polls d ≤ k * (m.toNat + 1)

theorem Moves.nil (m : BitVec 16) : Moves m 0 [] := ⟨rfl, Nat.zero_le _⟩

theorem Moves.append {m : BitVec 16} {k l : Nat} {d e : List Event} (hd : Moves m k d)
    (he : Moves m l e) : Moves m (k + l) (d ++ e) := by
  obtain ⟨h1, h2⟩ := hd
  obtain ⟨g1, g2⟩ := he
  refine ⟨by simp; omega, ?_⟩
  rw [polls_append, Nat.add_mul]
  omega

theorem Moves.sentEvents {m : BitVec 16} {ks : List Nat} {cs : List Chunk} (hb : withinBound m ks)
    (h : ks.length ≤ cs.length) : Moves m ks.length (sentEvents ks cs) :=
  ⟨by simp [sent_sentEvents]; omega, (polls_sentEvents m ks cs hb h).2⟩

theorem Moves.rcvdEvents {m : BitVec 16} {ks : List Nat} {cs : List Chunk} (hb : withinBound m ks)
    (h : ks.length ≤ cs.length) : Moves m ks.length (rcvdEvents ks cs) :=
  ⟨by simp [received_rcvdEvents]; omega, (polls_rcvdEvents m ks cs hb h).2⟩

theorem Moves.commandEvents {m : BitVec 16} {ks : List Nat} {c f : Frame} (hb : withinBound m ks)
    (h : ks.length = 4) : Moves m 4 (commandEvents ks c f) :=
  ⟨by simp [sent_commandEvents _ _ _ h, received_commandEvents _ _ _ h, frameChunks],
    polls_commandEvents m ks c f hb h⟩

/-- A gate that times out after a stretch adds `MAXATT + 1` polls and moves nothing. -/
theorem Moves.silent {m : BitVec 16} {k : Nat} {d : List Event} (hd : Moves m k d) :
    (sent (d ++ silentEvents m)).length + (received (d ++ silentEvents m)).length = k ∧
      polls (d ++ silentEvents m) ≤ (k + 1) * (m.toNat + 1) := by
  obtain ⟨h1, h2⟩ := hd
  refine ⟨by simpa using h1, ?_⟩
  rw [polls_append, polls_silentEvents, Nat.add_mul]
  omega

end Sys2Proof.Machine
end

