-- ==== Sys2Proof/Laws/Payload.lean ====
section
/-! SUPPORT. Admission, operands, and what an exchange with a payload can do (R115, R116, R118, R119),
for a scripted MODULE and for every MODULE. -/

namespace Sys2Proof.Machine

/-! ### Admission and operands -/

theorem admitted_of_admits {s : State} (h : s.Admits) (k : Answer) : admitted s k = k := by
  obtain ⟨hb, he, ho⟩ := h
  simp [admitted, admission, hb, he, ho]

/-- An admitted operation that answers a next state ran, and the engine stood where R110 asks it to. -/
theorem admitted_next {s t : State} {k : Answer} (h : admitted s k = .next t) :
    s.Admits ∧ k = .next t := by
  unfold admitted admission at h
  split at h
  · cases h
  · next hn =>
    refine ⟨?_, h⟩
    cases hb : s.busy <;> cases he : s.err <;> cases ho : s.isOpen <;>
      simp_all [State.Admits]

theorem unlessBusy_next {s t : State} {k : Answer} (h : unlessBusy s k = .next t) :
    s.busy = false ∧ k = .next t := by
  unfold unlessBusy at h
  cases hb : s.busy <;> simp_all

theorem unlessBusy_of_idle {s : State} (h : s.busy = false) (k : Answer) : unlessBusy s k = k := by
  simp [unlessBusy, h]

theorem narrow_of_lt {w n : Nat} (h : n < 2 ^ w) : narrow w n = some (BitVec.ofNat w n) := by
  simp [narrow, h]

theorem narrow_of_not_lt {w n : Nat} (h : ¬ n < 2 ^ w) : narrow w n = none := by simp [narrow, h]

/-- What narrowing can do. -/
theorem narrow_cases (w n : Nat) :
    (n < 2 ^ w ∧ narrow w n = some (BitVec.ofNat w n)) ∨ (2 ^ w ≤ n ∧ narrow w n = none) := by
  by_cases h : n < 2 ^ w
  · exact .inl ⟨h, narrow_of_lt h⟩
  · exact .inr ⟨by omega, narrow_of_not_lt h⟩

theorem payloadLen_eq (n : Byte) : payloadLen n = 4 * (64 * n.toNat) := by
  simp only [payloadLen, Config.pageSize]; omega

theorem payloadLen_ofNat {n : Nat} (h : n < 256) :
    payloadLen (BitVec.ofNat 8 n) = 4 * (64 * n) := by
  rw [payloadLen_eq, BitVec.toNat_ofNat, Nat.mod_eq_of_lt h]

theorem firstOperand_place (m : ArgPerm) (x y z : Byte) : firstOperand m (place m x y z) = x := by
  cases m <;> rfl
theorem secondOperand_place (m : ArgPerm) (x y z : Byte) : secondOperand m (place m x y z) = y := by
  cases m <;> rfl
theorem place_zero (m : ArgPerm) : place m 0 0 0 = ⟨0, 0, 0⟩ := by cases m <;> rfl

theorem answers_split (k0 k1 k2 k3 : Nat) (ls : List Nat) :
    answers ([k0, k1, k2, k3] ++ ls) = answers [k0, k1, k2, k3] ++ answers ls := answers_append _ _

/-! ### A read (R115, R119) -/

/-- The whole exchange of a read whose acknowledgement validates and whose payload arrives. -/
theorem readExchange_scripted (cmd : Command) (a : Args) (n : Nat) (k0 k1 k2 k3 : Nat)
    (ls : List Nat) (s : State) (rest : List Bool) (f : Frame) (cs more : List Chunk)
    (hn : ls.length = n) (hc : cs.length = n)
    (h : s.Scripted ([k0, k1, k2, k3] ++ ls) rest (frameChunks f ++ cs) more)
    (hv : validate f (s.cfg.ackOf cmd) = none) (ho : 4 * n < 2 ^ 17) :
    readExchange cmd a (4 * n) s = .ok () { s with
      txf := some (buildFrame (s.cfg.opcode cmd) a), rxf := some f
      readyIn := rest, linkIn := more
      hist := s.hist ++ commandEvents [k0, k1, k2, k3] (buildFrame (s.cfg.opcode cmd) a) f ++
        rcvdEvents ls cs
      pollcnt := pollcntAfter s.pollcnt ([k0, k1, k2, k3] ++ ls)
      xcnt := BitVec.ofNat 17 (4 * n)
      seq := ⟨s.seq.op, .rxData, BitVec.ofNat 17 (4 * n)⟩
      dbuf := s.dbuf.writeBytes 0 (cs.flatMap Chunk.bytes)
      dlen := BitVec.ofNat 17 (4 * n), dvalid := true } := by
  obtain ⟨hb, hr, hl⟩ := h
  rw [withinBound_append] at hb
  rw [answers_split, List.append_assoc] at hr
  rw [List.append_assoc] at hl
  rw [readExchange, transact_scripted cmd a k0 k1 k2 k3 s _ f _ hr hl hb.1, hv]
  simp only [Run.bind_ok]
  rw [recvPayload_scripted n ls cs _ rest more hn hc rfl rfl (by simpa using hb.2) ho]
  rw [pollcntAfter_append]
  simp [setPhase]

/-- A read whose acknowledgement fails validation. -/
theorem readExchange_badAck (cmd : Command) (a : Args) (size : Nat) (k0 k1 k2 k3 : Nat)
    (s : State) (rest : List Bool) (f : Frame) (more : List Chunk) (e : EngineError)
    (h : s.Scripted [k0, k1, k2, k3] rest (frameChunks f) more)
    (hv : validate f (s.cfg.ackOf cmd) = some e) :
    readExchange cmd a size s = .raised e { s with
      txf := some (buildFrame (s.cfg.opcode cmd) a), rxf := some f
      readyIn := rest, linkIn := more
      hist := s.hist ++ commandEvents [k0, k1, k2, k3] (buildFrame (s.cfg.opcode cmd) a) f
      pollcnt := pollcntAfter s.pollcnt [k0, k1, k2, k3]
      xcnt := 8
      seq := { s.seq with phase := .valAck1, off := 8 }
      dvalid := false, dbuf := [] } := by
  obtain ⟨hb, hr, hl⟩ := h
  rw [readExchange, transact_scripted cmd a k0 k1 k2 k3 s _ f _ hr hl hb, hv]
  rfl

/-- A read whose payload times out at chunk `ls.length` of `n`. -/
theorem readExchange_silent (cmd : Command) (a : Args) (n : Nat) (k0 k1 k2 k3 : Nat)
    (ls : List Nat) (s : State) (rest : List Bool) (f : Frame) (cs more : List Chunk)
    (hn : ls.length < n) (hc : cs.length = ls.length)
    (h : s.Scripted ([k0, k1, k2, k3] ++ ls) (silence s.maxatt ++ rest) (frameChunks f ++ cs) more)
    (hv : validate f (s.cfg.ackOf cmd) = none) (ho : 4 * n < 2 ^ 17) :
    readExchange cmd a (4 * n) s = .raised .timeout { s with
      txf := some (buildFrame (s.cfg.opcode cmd) a), rxf := some f
      readyIn := rest, linkIn := more
      hist := s.hist ++ commandEvents [k0, k1, k2, k3] (buildFrame (s.cfg.opcode cmd) a) f ++
        rcvdEvents ls cs ++ silentEvents s.maxatt
      pollcnt := s.maxatt
      xcnt := BitVec.ofNat 17 (4 * ls.length)
      seq := ⟨s.seq.op, .rxData, BitVec.ofNat 17 (4 * ls.length)⟩
      dvalid := false, dbuf := [] } := by
  obtain ⟨hb, hr, hl⟩ := h
  rw [withinBound_append] at hb
  rw [answers_split, List.append_assoc] at hr
  rw [List.append_assoc] at hl
  rw [readExchange, transact_scripted cmd a k0 k1 k2 k3 s _ f _ hr hl hb.1, hv]
  simp only [Run.bind_ok]
  rw [recvPayload_silent n ls cs _ rest more hn hc rfl rfl (by simpa using hb.2) ho]
  simp [setPhase, abandonRead]

/-- What a read can do, whatever the MODULE answers: the command or its acknowledgement times out, the
acknowledgement fails validation, the payload times out, or all of it arrives. -/
theorem readExchange_cases (cmd : Command) (a : Args) (n : Nat) (s : State) (ho : 4 * n < 2 ^ 17) :
    ∃ r l d p x q ks, withinBound s.maxatt ks ∧ x.toNat % 4 = 0 ∧ x.toNat ≤ max 8 (4 * n) ∧
    ((∃ cs, ks.length < 4 ∧ cs.length = ks.length - 2 ∧
      readExchange cmd a (4 * n) s = .raised .timeout { s with
        readyIn := r, linkIn := l, draws := d, pollcnt := p, xcnt := x, seq := q
        txf := some (buildFrame (s.cfg.opcode cmd) a)
        hist := s.hist ++ (sentEvents (ks.take 2) (frameChunks (buildFrame (s.cfg.opcode cmd) a)) ++
          rcvdEvents (ks.drop 2) cs ++ silentEvents s.maxatt)
        dvalid := false, dbuf := [] }) ∨
    (∃ f e, ks.length = 4 ∧ validate f (s.cfg.ackOf cmd) = some e ∧
      readExchange cmd a (4 * n) s = .raised e { s with
        readyIn := r, linkIn := l, draws := d, pollcnt := p, xcnt := x, seq := q
        txf := some (buildFrame (s.cfg.opcode cmd) a), rxf := some f
        hist := s.hist ++ commandEvents ks (buildFrame (s.cfg.opcode cmd) a) f
        dvalid := false, dbuf := [] }) ∨
    (∃ f ls cs, ks.length = 4 ∧ validate f (s.cfg.ackOf cmd) = none ∧ withinBound s.maxatt ls ∧
      cs.length = ls.length ∧ ls.length < n ∧
      readExchange cmd a (4 * n) s = .raised .timeout { s with
        readyIn := r, linkIn := l, draws := d, pollcnt := p, xcnt := x, seq := q
        txf := some (buildFrame (s.cfg.opcode cmd) a), rxf := some f
        hist := s.hist ++ (commandEvents ks (buildFrame (s.cfg.opcode cmd) a) f ++
          rcvdEvents ls cs ++ silentEvents s.maxatt)
        dvalid := false, dbuf := [] }) ∨
    (∃ f ls cs, ks.length = 4 ∧ validate f (s.cfg.ackOf cmd) = none ∧ withinBound s.maxatt ls ∧
      cs.length = ls.length ∧ ls.length = n ∧
      readExchange cmd a (4 * n) s = .ok () { s with
        readyIn := r, linkIn := l, draws := d, pollcnt := p, xcnt := x, seq := q
        txf := some (buildFrame (s.cfg.opcode cmd) a), rxf := some f
        hist := s.hist ++ (commandEvents ks (buildFrame (s.cfg.opcode cmd) a) f ++
          rcvdEvents ls cs)
        dbuf := s.dbuf.writeBytes 0 (cs.flatMap Chunk.bytes)
        dlen := BitVec.ofNat 17 (4 * n), dvalid := true })) := by
  obtain ⟨r, l, d, p, x, q, ks, hb, hx, hx8, ⟨f, hn, h⟩ | ⟨cs, hn, hc, h⟩⟩ := transact_cases cmd a s
  · cases hv : validate f (s.cfg.ackOf cmd) with
    | none =>
      obtain ⟨r', l', d', ls, cs, hb', hc, h'⟩ := recvPayload_cases n (setPhase .rxData { s with
        readyIn := r, linkIn := l, draws := d, pollcnt := p, xcnt := x, seq := q
        txf := some (buildFrame (s.cfg.opcode cmd) a), rxf := some f
        hist := s.hist ++ commandEvents ks (buildFrame (s.cfg.opcode cmd) a) f }) ho
      rw [hv] at h
      rcases h' with ⟨hl, h'⟩ | ⟨hl, h'⟩
      · refine ⟨r', l', d', pollcntAfter p ls, BitVec.ofNat 17 (4 * n),
          ⟨q.op, .rxData, BitVec.ofNat 17 (4 * n)⟩, ks, hb, ?_, ?_,
          .inr (.inr (.inr ⟨f, ls, cs, hn, hv, hb', hc, hl, ?_⟩))⟩
        · simp only [BitVec.toNat_ofNat]; omega
        · simp only [BitVec.toNat_ofNat]; omega
        · rw [readExchange, h]
          simp only [Run.bind_ok, h', Run.onRaise_ok]
          simp [setPhase]
      · refine ⟨r', l', d', s.maxatt, BitVec.ofNat 17 (4 * ls.length),
          ⟨q.op, .rxData, BitVec.ofNat 17 (4 * ls.length)⟩, ks, hb, ?_, ?_,
          .inr (.inr (.inl ⟨f, ls, cs, hn, hv, hb', hc, hl, ?_⟩))⟩
        · simp only [BitVec.toNat_ofNat]; omega
        · simp only [BitVec.toNat_ofNat]; omega
        · rw [readExchange, h]
          simp only [Run.bind_ok, h', Run.onRaise_raised]
          simp [setPhase, abandonRead]
    | some e =>
      rw [hv] at h
      exact ⟨r, l, d, p, x, q, ks, hb, hx, by omega, .inr (.inl ⟨f, e, hn, hv, by
        rw [readExchange, h]; rfl⟩)⟩
  · exact ⟨r, l, d, p, x, q, ks, hb, hx, by omega, .inl ⟨cs, hn, hc, by
      rw [readExchange, h]; rfl⟩⟩

/-! ### A write (R116, R118) -/

/-- The whole exchange of a write whose first acknowledgement validates: judged by the second. -/
theorem writeExchange_scripted (cmd : Command) (a : Args) (size : Nat) (k0 k1 k2 k3 : Nat)
    (ls : List Nat) (m0 m1 : Nat) (s : State) (rest : List Bool) (f g : Frame) (more : List Chunk)
    (hn : ls.length = size / 4)
    (h : s.Scripted ([k0, k1, k2, k3] ++ ls ++ [m0, m1]) rest (frameChunks f ++ frameChunks g) more)
    (hv : validate f (s.cfg.ackOf cmd) = none) :
    writeExchange cmd a size s =
      let t : State := { s with
        txf := some (buildFrame (s.cfg.opcode cmd) a), rxf := some g
        readyIn := rest, linkIn := more
        hist := s.hist ++ commandEvents [k0, k1, k2, k3] (buildFrame (s.cfg.opcode cmd) a) f ++
          sentEvents ls (chunksOf (dbufBytes s size)) ++ rcvdEvents [m0, m1] (frameChunks g)
        pollcnt := pollcntAfter s.pollcnt ([k0, k1, k2, k3] ++ ls ++ [m0, m1])
        xcnt := 8
        seq := ⟨s.seq.op, .valAck2, 8⟩ }
      match validate g s.cfg.ackOk with
      | none => .ok g t
      | some e => .raised e t := by
  obtain ⟨hb, hr, hl⟩ := h
  rw [withinBound_append, withinBound_append] at hb
  rw [answers_append, answers_split, List.append_assoc, List.append_assoc] at hr
  rw [List.append_assoc] at hl
  rw [writeExchange, transact_scripted cmd a k0 k1 k2 k3 s _ f _ hr hl hb.1.1, hv]
  simp only [Run.bind_ok]
  rw [sendChunks_scripted _ ls _ (answers [m0, m1] ++ rest)
    (by rw [chunksOf_dbufBytes_length, hn]) rfl (by simpa using hb.1.2)]
  simp only [Run.bind_ok, secondAck]
  rw [recvAck_scripted .rxAck2 .valAck2 _ m0 m1 _ rest g more rfl rfl (by simpa using hb.2)]
  rw [pollcntAfter_append, pollcntAfter_append]
  cases hg : validate g s.cfg.ackOk <;> simp only [setPhase, hg] <;>
    simp only [List.append_assoc] <;> rfl

/-- A write whose acknowledgement fails validation. -/
theorem writeExchange_badAck (cmd : Command) (a : Args) (size : Nat) (k0 k1 k2 k3 : Nat)
    (s : State) (rest : List Bool) (f : Frame) (more : List Chunk) (e : EngineError)
    (h : s.Scripted [k0, k1, k2, k3] rest (frameChunks f) more)
    (hv : validate f (s.cfg.ackOf cmd) = some e) :
    writeExchange cmd a size s = .raised e { s with
      txf := some (buildFrame (s.cfg.opcode cmd) a), rxf := some f
      readyIn := rest, linkIn := more
      hist := s.hist ++ commandEvents [k0, k1, k2, k3] (buildFrame (s.cfg.opcode cmd) a) f
      pollcnt := pollcntAfter s.pollcnt [k0, k1, k2, k3]
      xcnt := 8
      seq := { s.seq with phase := .valAck1, off := 8 } } := by
  obtain ⟨hb, hr, hl⟩ := h
  rw [writeExchange, transact_scripted cmd a k0 k1 k2 k3 s _ f _ hr hl hb, hv]
  rfl

/-- A write whose payload times out at chunk `ls.length` of it. -/
theorem writeExchange_silent (cmd : Command) (a : Args) (size : Nat) (k0 k1 k2 k3 : Nat)
    (ls : List Nat) (s : State) (rest : List Bool) (f : Frame) (more : List Chunk)
    (hn : ls.length < size / 4)
    (h : s.Scripted ([k0, k1, k2, k3] ++ ls) (silence s.maxatt ++ rest) (frameChunks f) more)
    (hv : validate f (s.cfg.ackOf cmd) = none) :
    writeExchange cmd a size s = .raised .timeout { s with
      txf := some (buildFrame (s.cfg.opcode cmd) a), rxf := some f
      readyIn := rest, linkIn := more
      hist := s.hist ++ commandEvents [k0, k1, k2, k3] (buildFrame (s.cfg.opcode cmd) a) f ++
        sentEvents ls (chunksOf (dbufBytes s size)) ++ silentEvents s.maxatt
      pollcnt := s.maxatt
      xcnt := BitVec.ofNat 17 (4 * ls.length)
      seq := ⟨s.seq.op, .txData, BitVec.ofNat 17 (4 * ls.length)⟩ } := by
  obtain ⟨hb, hr, hl⟩ := h
  rw [withinBound_append] at hb
  rw [answers_split, List.append_assoc] at hr
  rw [writeExchange, transact_scripted cmd a k0 k1 k2 k3 s _ f _ hr hl hb.1, hv]
  simp only [Run.bind_ok]
  rw [sendChunks_silent _ ls _ rest (by rw [chunksOf_dbufBytes_length]; exact hn) rfl
    (by simpa using hb.2)]
  simp only [Run.bind_raised, setPhase, List.append_assoc]
  rfl

/-- A write whose second acknowledgement times out at chunk `ms.length` of it. -/
theorem writeExchange_secondSilent (cmd : Command) (a : Args) (size : Nat) (k0 k1 k2 k3 : Nat)
    (ls ms : List Nat) (s : State) (rest : List Bool) (f : Frame) (cs more : List Chunk)
    (hn : ls.length = size / 4) (hm : ms.length < 2) (hc : cs.length = ms.length)
    (h : s.Scripted ([k0, k1, k2, k3] ++ ls ++ ms) (silence s.maxatt ++ rest) (frameChunks f ++ cs)
      more)
    (hv : validate f (s.cfg.ackOf cmd) = none) :
    writeExchange cmd a size s = .raised .timeout { s with
      txf := some (buildFrame (s.cfg.opcode cmd) a), rxf := some f
      readyIn := rest, linkIn := more
      hist := s.hist ++ commandEvents [k0, k1, k2, k3] (buildFrame (s.cfg.opcode cmd) a) f ++
        sentEvents ls (chunksOf (dbufBytes s size)) ++ rcvdEvents ms cs ++ silentEvents s.maxatt
      pollcnt := s.maxatt
      xcnt := BitVec.ofNat 17 (4 * ms.length)
      seq := ⟨s.seq.op, .rxAck2, BitVec.ofNat 17 (4 * ms.length)⟩ } := by
  obtain ⟨hb, hr, hl⟩ := h
  rw [withinBound_append, withinBound_append] at hb
  rw [answers_append, answers_split, List.append_assoc, List.append_assoc] at hr
  rw [List.append_assoc] at hl
  rw [writeExchange, transact_scripted cmd a k0 k1 k2 k3 s _ f _ hr hl hb.1.1, hv]
  simp only [Run.bind_ok]
  rw [sendChunks_scripted _ ls _ (answers ms ++ (silence s.maxatt ++ rest))
    (by rw [chunksOf_dbufBytes_length, hn]) rfl (by simpa using hb.1.2)]
  simp only [Run.bind_ok, secondAck]
  rw [recvAck_silent .rxAck2 .valAck2 _ ms cs _ rest more hm hc rfl rfl (by simpa using hb.2)]
  simp only [setPhase, List.append_assoc]
  rfl

/-- What a write can do, whatever the MODULE answers: the command or its acknowledgement times out, the
acknowledgement fails validation, the payload times out, the second acknowledgement does, or it is
judged. `b` is the payload's bytes, those of `DBUF` when the acknowledgement is in. -/
theorem writeExchange_cases (cmd : Command) (a : Args) (n : Nat) (s : State) (hsz : 4 * n < 2 ^ 17) :
    ∃ r l d p x q ks b, withinBound s.maxatt ks ∧ x.toNat % 4 = 0 ∧ x.toNat ≤ max 8 (4 * n) ∧
    (∃ w, b = (List.range (4 * n)).map fun o =>
      (s.dbuf.read? o).getD (Config.freeDbuf w o)) ∧
    ((∃ cs, ks.length < 4 ∧ cs.length = ks.length - 2 ∧
      writeExchange cmd a (4 * n) s = .raised .timeout { s with
        readyIn := r, linkIn := l, draws := d, pollcnt := p, xcnt := x, seq := q
        txf := some (buildFrame (s.cfg.opcode cmd) a)
        hist := s.hist ++ (sentEvents (ks.take 2) (frameChunks (buildFrame (s.cfg.opcode cmd) a)) ++
          rcvdEvents (ks.drop 2) cs ++ silentEvents s.maxatt) }) ∨
    (∃ f e, ks.length = 4 ∧ validate f (s.cfg.ackOf cmd) = some e ∧
      writeExchange cmd a (4 * n) s = .raised e { s with
        readyIn := r, linkIn := l, draws := d, pollcnt := p, xcnt := x, seq := q
        txf := some (buildFrame (s.cfg.opcode cmd) a), rxf := some f
        hist := s.hist ++ commandEvents ks (buildFrame (s.cfg.opcode cmd) a) f }) ∨
    (∃ f ls, ks.length = 4 ∧ validate f (s.cfg.ackOf cmd) = none ∧ withinBound s.maxatt ls ∧
      ls.length < n ∧
      writeExchange cmd a (4 * n) s = .raised .timeout { s with
        readyIn := r, linkIn := l, draws := d, pollcnt := p, xcnt := x, seq := q
        txf := some (buildFrame (s.cfg.opcode cmd) a), rxf := some f
        hist := s.hist ++ (commandEvents ks (buildFrame (s.cfg.opcode cmd) a) f ++
          sentEvents ls (chunksOf b) ++ silentEvents s.maxatt) }) ∨
    (∃ f ls ms cs, ks.length = 4 ∧ validate f (s.cfg.ackOf cmd) = none ∧ withinBound s.maxatt ls ∧
      ls.length = n ∧ withinBound s.maxatt ms ∧ ms.length < 2 ∧ cs.length = ms.length ∧
      writeExchange cmd a (4 * n) s = .raised .timeout { s with
        readyIn := r, linkIn := l, draws := d, pollcnt := p, xcnt := x, seq := q
        txf := some (buildFrame (s.cfg.opcode cmd) a), rxf := some f
        hist := s.hist ++ (commandEvents ks (buildFrame (s.cfg.opcode cmd) a) f ++
          sentEvents ls (chunksOf b) ++ rcvdEvents ms cs ++ silentEvents s.maxatt) }) ∨
    (∃ f ls ms g, ks.length = 4 ∧ validate f (s.cfg.ackOf cmd) = none ∧ withinBound s.maxatt ls ∧
      ls.length = n ∧ withinBound s.maxatt ms ∧ ms.length = 2 ∧
      writeExchange cmd a (4 * n) s =
        let t : State := { s with
          readyIn := r, linkIn := l, draws := d, pollcnt := p, xcnt := x, seq := q
          txf := some (buildFrame (s.cfg.opcode cmd) a), rxf := some g
          hist := s.hist ++ (commandEvents ks (buildFrame (s.cfg.opcode cmd) a) f ++
            sentEvents ls (chunksOf b) ++ rcvdEvents ms (frameChunks g)) }
        match validate g s.cfg.ackOk with
        | none => .ok g t
        | some e => .raised e t)) := by
  obtain ⟨r, l, d, p, x, q, ks, hb, hx, hx8, ⟨f, hn, h⟩ | ⟨cs, hn, hc, h⟩⟩ := transact_cases cmd a s
  · cases hv : validate f (s.cfg.ackOf cmd) with
    | none =>
      rw [hv] at h
      simp only at h
      generalize hs1 : ({ s with
        readyIn := r, linkIn := l, draws := d, pollcnt := p, xcnt := x, seq := q
        txf := some (buildFrame (s.cfg.opcode cmd) a), rxf := some f
        hist := s.hist ++ commandEvents ks (buildFrame (s.cfg.opcode cmd) a) f } : State) = s1 at h
      have hlen := chunksOf_dbufBytes_length s1 (4 * n)
      rw [Nat.mul_div_cancel_left _ (by decide)] at hlen
      obtain ⟨r', d', ls, hb', h'⟩ :=
        sendChunks_cases (chunksOf (dbufBytes s1 (4 * n))) (setPhase .txData s1)
      rw [hlen] at h'
      rcases h' with ⟨hl, h'⟩ | ⟨hl, h'⟩
      · obtain ⟨r2, l2, d2, p2, x2, q2, ms, hb2, hx2, hx28, h2⟩ :=
          recvAck_cases .rxAck2 .valAck2 s1.cfg.ackOk { setPhase .txData s1 with
            readyIn := r', draws := d'
            hist := s1.hist ++ sentEvents ls (chunksOf (dbufBytes s1 (4 * n)))
            pollcnt := pollcntAfter s1.pollcnt ls
            xcnt := BitVec.ofNat 17 (4 * n)
            seq := ⟨s1.seq.op, .txData, BitVec.ofNat 17 (4 * n)⟩ }
        refine ⟨r2, l2, d2, p2, x2, q2, ks, dbufBytes s1 (4 * n), hb, hx2, by omega,
          ⟨d, by subst hs1; rfl⟩, ?_⟩
        rcases h2 with ⟨g, hm, h2⟩ | ⟨cs, hm, hc, h2⟩
        · refine .inr (.inr (.inr (.inr ⟨f, ls, ms, g, hn, hv, by subst hs1; exact hb', hl,
            by subst hs1; exact hb2, hm, ?_⟩)))
          rw [writeExchange, h, Run.bind_ok, h', Run.bind_ok, secondAck]
          refine Eq.trans h2 ?_
          subst hs1
          simp only [setPhase]
          cases validate g s.cfg.ackOk <;> simp
        · refine .inr (.inr (.inr (.inl ⟨f, ls, ms, cs, hn, hv, by subst hs1; exact hb', hl,
            by subst hs1; exact hb2, hm, hc, ?_⟩)))
          rw [writeExchange, h, Run.bind_ok, h', Run.bind_ok, secondAck]
          refine Eq.trans h2 ?_
          subst hs1
          simp [setPhase]
      · refine ⟨r', l, d', s.maxatt, BitVec.ofNat 17 (4 * ls.length),
          ⟨q.op, .txData, BitVec.ofNat 17 (4 * ls.length)⟩, ks, dbufBytes s1 (4 * n), hb, ?_, ?_,
          ⟨d, by subst hs1; rfl⟩, .inr (.inr (.inl ⟨f, ls, hn, hv, by subst hs1; exact hb', hl,
            ?_⟩))⟩
        · simp only [BitVec.toNat_ofNat]; omega
        · simp only [BitVec.toNat_ofNat]; omega
        · rw [writeExchange, h, Run.bind_ok, h', Run.bind_raised]
          subst hs1
          simp [setPhase]
    | some e =>
      rw [hv] at h
      exact ⟨r, l, d, p, x, q, ks, _, hb, hx, by omega, ⟨0, rfl⟩, .inr (.inl ⟨f, e, hn, hv, by
        rw [writeExchange, h]; rfl⟩)⟩
  · exact ⟨r, l, d, p, x, q, ks, _, hb, hx, by omega, ⟨0, rfl⟩, .inl ⟨cs, hn, hc, by
      rw [writeExchange, h]; rfl⟩⟩

end Sys2Proof.Machine
end

