-- ==== Sys2Proof/Laws/Exec.lean ====
section
/-! SUPPORT. What an instruction that runs an exchange comes to, said once for all sixteen: admitted,
it is its start, one of the three exchanges on its command and arguments, and what its rule does
with the outcome. -/

namespace Sys2Proof.Machine

/-- What R114 to R120 do with a validated acknowledgement, where nothing follows it. -/
inductive AckTail : (Frame → State → Run OpResult) → Prop where
  | version : AckTail fun f s => .ok (.version f.arg0 f.arg1 f.arg2) s
  | nothing : AckTail fun _ s => .ok .nothing s
  | bist : AckTail testBist

/-- The state an exchange starts from: `REQ` latched or kept, `SEQ` at its start, `BUSY` set. -/
def started (q : Option Request) (op : OpName) (s : State) : State :=
  { s with req := q, seq := ⟨op, .check, 0⟩, busy := true }

theorem beginOp_eq_started (op : OpName) (r : Request) (s : State) :
    beginOp op r s = started (some r) op s := rfl
theorem beginFrame_eq_started (op : OpName) (s : State) : beginFrame op s = started s.req op s := rfl

/-- What an admitted exchange does. -/
inductive Exchange (i : Instr) (s : State) (cmd : Command) (a : Args) : State → Prop where
  /-- One acknowledgement, nothing after it. -/
  | plain (op : OpName) (tail : Frame → State → Run OpResult)
    (ht : AckTail tail) (hr : i.readsPayload = false) (hs : i.writesPayload = false)
    (hi : tail = testBist → i = .runSelfTest ∨ ∃ a0 a1 a2, i = .cmdRunBist a0 a1 a2) :
    Exchange i s cmd a (finish ((transact cmd a (started (i.latched s) op s)).bind tail))
  /-- A payload of `4 * n` bytes received after the acknowledgement. -/
  | read (op : OpName) (n : Nat) (hn : n ≤ 16320)
    (hr : i.readsPayload = true) (hv : i.recvSize s.cfg = 4 * n) :
    Exchange i s cmd a
      (finish ((readExchange cmd a (4 * n) (started (i.latched s) op s)).bind fun _ s1 => .ok .buffer s1))
  /-- VerifyCodeProtect: one page received, then its byte 1 tested (R124). -/
  | verify (op : OpName) (hi : i = .verifyCodeProtect) :
    Exchange i s cmd a
      (finish ((readExchange cmd a (4 * 64) (started (i.latched s) op s)).bind fun _ s1 => testProtect s1))
  /-- A payload of `4 * n` bytes sent after the acknowledgement, and a second one awaited. -/
  | write (op : OpName) (n : Nat) (hn : n ≤ 16320)
    (hr : i.readsPayload = false) (hp : i.writesPayload = true) (hs : i.sendSize s.cfg = 4 * n)
    (hd : s.dlen.toNat = 4 * n)
    (hk : s.cfg.ackOf cmd = s.cfg.ackOk) :
    Exchange i s cmd a
      (finish ((writeExchange cmd a (4 * n) (started (i.latched s) op s)).bind fun _ s1 => .ok .nothing s1))
  /-- The program bytes have the wrong length (R166). -/
  | sizeMismatch (op : OpName) (hr : i.readsPayload = false)
    (hs : s.dlen.toNat ≠ i.sendSize s.cfg)
    (hi : (∃ n, i = .writeProgramArea n) ∨ ∃ a0 a1 a2, i = .cmdWriteProgramArea a0 a1 a2) :
    Exchange i s cmd a (raiseError .programSizeMismatch (started (i.latched s) op s))

/-- The self test's tail is no other's. -/
theorem testBist_ne_version :
    (fun f s => Run.ok (OpResult.version f.arg0 f.arg1 f.arg2) s) ≠ testBist := by
  intro h
  have := congrFun (congrFun h default) State.reset
  unfold testBist at this
  split at this <;> cases this
theorem testBist_ne_nothing : (fun _ s => Run.ok OpResult.nothing s) ≠ testBist := by
  intro h
  have := congrFun (congrFun h default)
    { State.reset with seq := ⟨.idle, .check, 0⟩ }
  unfold testBist at this
  split at this <;> cases this

/-- Only a read receives a payload, only a write sends one, and no instruction does both. -/
theorem Instr.recvSize_eq_zero {i : Instr} {c : Config} (h : i.readsPayload = false) :
    i.recvSize c = 0 := by
  cases i <;> first | rfl | (simp only [Instr.readsPayload, Bool.true_eq_false] at h)
theorem Instr.sendSize_eq_zero {i : Instr} {c : Config} (h : i.writesPayload = false) :
    i.sendSize c = 0 := by
  cases i <;> first | rfl | (simp only [Instr.writesPayload, Bool.true_eq_false] at h)
theorem Instr.writesPayload_of_reads {i : Instr} (h : i.readsPayload = true) :
    i.writesPayload = false := by
  cases i <;> first | rfl | (simp only [Instr.readsPayload, Bool.false_eq_true] at h)

/-- The protect address is byte 1 of the config page (R123). -/
theorem pam_protectAddress (c : Config) :
    pam c (.flat (protectAddress c)) = (c.configPage, 1) := by
  have := c.configPage.isLt
  simp only [pam, protectAddress, flatOf, Config.pageSize, Config.cfgProtectOff, Prod.mk.injEq]
  constructor <;> (apply BitVec.eq_of_toNat_eq; simp; try omega)

theorem Run.bind_assoc {α β γ : Type} (r : Run α) (k : α → State → Run β) (l : β → State → Run γ) :
    (r.bind k).bind l = r.bind fun a s => (k a s).bind l := by cases r <;> rfl

theorem Byte.pages_le (n : Byte) : 64 * n.toNat ≤ 16320 := by have := n.isLt; omega

/-- An exchange that answers a next state was admitted, and did what `Exchange` lists. -/
theorem exec_exchange_next {i : Instr} {s t : State} {cmd : Command} {a : Args}
    (hi : i.exchange? s.cfg = some (cmd, a)) (h : exec i s = .next t) :
    s.Admits ∧ Exchange i s cmd a t := by
  cases i <;> simp only [Instr.exchange?, Option.some.injEq, Prod.mk.injEq, reduceCtorEq] at hi <;>
    obtain ⟨rfl, rfl⟩ := hi <;> replace h := admitted_next (by exact h) <;>
    obtain ⟨ha, h⟩ := h <;> refine ⟨ha, ?_⟩
  case cmdReadSwVersion => cases h; exact .plain _ _ .version rfl rfl fun h => absurd h testBist_ne_version
  case cmdReadFlashPage =>
    cases h
    rw [runReadPage, payloadLen_eq]
    exact .read _ _ (Byte.pages_le _) rfl (by simp only [Instr.recvSize, Config.perm]; omega)
  case cmdWriteProgramArea =>
    cases h
    rw [runWriteProgramArea]
    split
    · next hd => exact .sizeMismatch _ rfl hd (.inr ⟨_, _, _, rfl⟩)
    · next hd =>
      rw [payloadLen_eq] at hd ⊢
      refine .write _ _ (Byte.pages_le _) rfl rfl ?_ (by simpa using hd) rfl
      simp only [Instr.sendSize, Config.perm]; omega
  case cmdWriteFlashPage =>
    split at h
    · cases h
    · next hd => cases h; exact .write _ 64 (by decide) rfl rfl rfl (not_not.1 hd) rfl
  case cmdWriteFlashByte => cases h; exact .plain _ _ .nothing rfl rfl fun h => absurd h testBist_ne_nothing
  case cmdRunBist => cases h; exact .plain _ _ .bist rfl rfl fun _ => .inr ⟨_, _, _, rfl⟩
  case cmdReadProgramArea =>
    cases h
    rw [runReadProgramArea, payloadLen_eq]
    exact .read _ _ (Byte.pages_le _) rfl (by simp only [Instr.recvSize, Config.perm]; omega)
  case readSwVersion =>
    cases h
    rw [argsOf, place_zero]
    exact .plain _ _ .version rfl rfl fun h => absurd h testBist_ne_version
  case readPage p n =>
    rcases narrow_cases 8 p with ⟨hp, e⟩ | ⟨_, e⟩ <;>
      rcases narrow_cases 8 n with ⟨hn, e'⟩ | ⟨_, e'⟩ <;>
      rw [e, e'] at h <;> cases h
    rw [runReadPage, payloadLen_eq]
    exact .read _ _ (Byte.pages_le _) rfl
      (by simp only [Instr.recvSize, BitVec.toNat_ofNat, Nat.mod_eq_of_lt hn]; omega)
  case writePage p =>
    rcases narrow_cases 8 p with ⟨hp, e⟩ | ⟨_, e⟩ <;> rw [e] at h
    · simp only at h
      split at h
      · cases h
      · next hd => cases h; exact .write _ 64 (by decide) rfl rfl rfl (not_not.1 hd) rfl
    · cases h
  case writeByte ad v =>
    rcases narrow_cases 16 ad with ⟨hp, e⟩ | ⟨_, e⟩ <;>
      rcases narrow_cases 8 v with ⟨hn, e'⟩ | ⟨_, e'⟩ <;>
      rw [e, e'] at h <;> cases h
    simp only [pam, Config.pageSize, BitVec.toNat_ofNat, Nat.mod_eq_of_lt hp]
    exact .plain _ _ .nothing rfl rfl fun h => absurd h testBist_ne_nothing
  case writeProgramArea n =>
    rcases narrow_cases 8 n with ⟨hn, e⟩ | ⟨_, e⟩ <;> rw [e] at h <;> cases h
    rw [runWriteProgramArea]
    split
    · next hd =>
      refine .sizeMismatch _ rfl ?_ (.inl ⟨n, rfl⟩)
      rw [payloadLen_ofNat hn] at hd
      simp only [Instr.sendSize]
      intro hc; exact hd (by simp only [beginOp_dlen]; omega)
    · next hd =>
      rw [payloadLen_eq] at hd ⊢
      refine .write _ _ (Byte.pages_le _) rfl rfl ?_ (by simpa using hd) rfl
      simp only [Instr.sendSize, BitVec.toNat_ofNat, Nat.mod_eq_of_lt hn]; omega
  case readProgramArea n =>
    rcases narrow_cases 8 n with ⟨hn, e⟩ | ⟨_, e⟩ <;> rw [e] at h <;> cases h
    rw [runReadProgramArea, payloadLen_eq]
    exact .read _ _ (Byte.pages_le _) rfl
      (by simp only [Instr.recvSize, BitVec.toNat_ofNat, Nat.mod_eq_of_lt hn]; omega)
  case runSelfTest =>
    cases h
    rw [argsOf, place_zero]
    exact .plain _ _ .bist rfl rfl fun _ => .inl rfl
  case setCodeProtect =>
    cases h
    rw [pam_protectAddress]
    exact .plain _ _ .nothing rfl rfl fun h => absurd h testBist_ne_nothing
  case verifyCodeProtect =>
    cases h
    rw [runReadPage, Run.bind_assoc]
    exact .verify _ rfl

/-- Data that is there has a length that fits. -/
theorem Instr.lengthFits_of_dataFits {i : Instr} {s : State} {p : Command × Args}
    (hd : i.DataFits s) (hi : i.exchange? s.cfg = some p) : i.LengthFits s := by
  cases i <;> simp only [Instr.exchange?, reduceCtorEq] at hi <;> trivial

/-- An instruction whose operands and lengths fit runs to its end when the engine admits it, whatever
the MODULE answers. -/
theorem exec_of_admits {i : Instr} {s : State} (hw : i.wf = true) (hd : i.LengthFits s)
    (ha : s.Admits) : ∃ t, exec i s = .next t := by
  have h8 : ∀ n, n < 2 ^ 8 → narrow 8 n = some (BitVec.ofNat 8 n) := fun _ h => narrow_of_lt h
  have h16 : ∀ n, n < 2 ^ 16 → narrow 16 n = some (BitVec.ofNat 16 n) := fun _ h => narrow_of_lt h
  cases i <;>
    simp only [Instr.wf, Bool.and_eq_true, decide_eq_true_eq] at hw <;>
    simp only [Instr.LengthFits, Config.pageSize] at hd <;>
    simp only [exec, execBuildCommand, execValidateResponse, execAckOk, execAckVersion, execAckBist,
      execIsReady, execWaitReady, execSend, execReceive, unlessBusy_of_idle ha.1,
      execCmdReadSwVersion, execCmdReadFlashPage, execCmdWriteProgramArea, execCmdWriteFlashPage,
      execCmdWriteFlashByte, execCmdRunBist, execCmdReadProgramArea,
      execReadSwVersion, execReadPage, execWritePage, execWriteByte, execWriteProgramArea,
      execReadProgramArea, execRunSelfTest, execSetCodeProtect, execVerifyCodeProtect,
      admitted_of_admits ha, Config.pageSize, ne_eq, Nat.not_lt.2, *, not_true, if_false] <;>
    exact ⟨_, rfl⟩

/-- An exchange whose operands fit and whose data is there runs when the engine admits it. -/
theorem exec_exchange_of_admits {i : Instr} {s : State} {cmd : Command} {a : Args}
    (hi : i.exchange? s.cfg = some (cmd, a)) (hw : i.wf = true) (hd : i.DataFits s)
    (ha : s.Admits) : ∃ t, exec i s = .next t := exec_of_admits hw (Instr.lengthFits_of_dataFits hd hi) ha

/-! ### How an exchange's outcome ends it -/

/-- An acknowledgement's tail completes, or fails the self test; nothing else changes. -/
theorem AckTail.finish_cases {tail : Frame → State → Run OpResult} (ht : AckTail tail) (f : Frame)
    (s : State) : (∃ r, finish (tail f s) = complete r s) ∨
      finish (tail f s) = raiseError .selfTestFailure s ∧ tail = testBist := by
  cases ht with
  | version => exact .inl ⟨_, rfl⟩
  | nothing => exact .inl ⟨_, rfl⟩
  | bist =>
    by_cases h : bistByte s.cfg.bistResultOff f = 0
    · exact .inl ⟨.nothing, by simp [testBist, h, complete, setPhase]⟩
    · refine .inr ⟨?_, rfl⟩
      rw [testBist, if_pos h]; rfl

/-- The protect test completes, or fails; nothing else changes. -/
theorem testProtect_finish_cases (s : State) :
    finish (testProtect s) = complete .nothing s ∨
      finish (testProtect s) = raiseError .codeProtectVerifyFailure s := by
  unfold testProtect
  split
  · exact .inr rfl
  · exact .inl rfl

end Sys2Proof.Machine
end

