-- ==== Sys2Proof/Laws/Outcome.lean ====
section
/-! SUPPORT. Every end an exchange can come to, listed once, whatever the MODULE answers. A statement
about all exchanges is a case analysis over this list. -/

namespace Sys2Proof.Machine

/-- The fields an exchange moves and no claim about every MODULE fixes. -/
structure Moved where
  seq : SeqPos
  busy : Bool
  readyIn : List Bool
  linkIn : List Chunk
  draws : Nat
  pollcnt : BitVec 16
  xcnt : BitVec 17

/-- The state with those fields moved, `REQ` latched, `TXF` holding `x`, and `d` appended to `HIST`. -/
def State.moved (s : State) (i : Instr) (w : Moved) (x : Option Frame) (d : List Event) : State :=
  { s with
    req := i.latched s, seq := w.seq, busy := w.busy, readyIn := w.readyIn, linkIn := w.linkIn
    draws := w.draws, pollcnt := w.pollcnt, xcnt := w.xcnt
    txf := x, hist := s.hist ++ d }

/-- An error before the payload is complete abandons a read, and only a read (R170). -/
def lostIf (i : Instr) (s : State) : State := if i.readsPayload then abandonRead s else s

/-- `XCNT` counts whole chunks of at most one payload (R20). -/
def Moved.counted (w : Moved) : Prop := w.xcnt.toNat % 4 = 0 ∧ w.xcnt.toNat ≤ 65280

/-- The payload a write sends: the bytes of `DBUF`, an unknown one being any value. -/
def payload (s : State) (w n : Nat) : List Byte :=
  (List.range n).map fun o => (s.dbuf.read? o).getD (Config.freeDbuf w o)

/-- If every byte is known, the payload is what `DBUF` holds. -/
theorem payload_of_known (s : State) (w n : Nat) (h : ∀ x < n, (s.dbuf.read? x).isSome) :
    payload s w n = dbufBytes s n := by
  apply List.map_congr_left
  intro x hx
  obtain ⟨v, hv⟩ := Option.isSome_iff_exists.1 (h x (List.mem_range.1 hx))
  simp [readDbuf, hv]

@[simp] theorem payload_length (s : State) (w n : Nat) : (payload s w n).length = n := by
  simp [payload]

/-- The ends of an exchange. -/
inductive Outcome (i : Instr) (s : State) (cmd : Command) (a : Args) : State → Prop where
  /-- `ProgramSizeMismatch`, before any wire event (R166). -/
  | sizeMismatch (op : OpName) (hr : i.readsPayload = false)
    (hi : (∃ n, i = .writeProgramArea n) ∨ ∃ a0 a1 a2, i = .cmdWriteProgramArea a0 a1 a2) :
    Outcome i s cmd a (raiseError .programSizeMismatch (started (i.latched s) op s))
  /-- The command or its acknowledgement timed out (R112). -/
  | commandTimeout (w : Moved) (ks : List Nat) (cs : List Chunk) (hw : w.counted)
    (hb : withinBound s.maxatt ks) (hn : ks.length < 4) (hc : cs.length = ks.length - 2) :
    Outcome i s cmd a (raiseError .timeout (lostIf i
      (s.moved i w (some (buildFrame (s.cfg.opcode cmd) a))
        (sentEvents (ks.take 2) (frameChunks (buildFrame (s.cfg.opcode cmd) a)) ++
          rcvdEvents (ks.drop 2) cs ++ silentEvents s.maxatt))))
  /-- The acknowledgement failed validation (R51, R112). -/
  | badAck (w : Moved) (ks : List Nat) (f : Frame) (e : EngineError) (hw : w.counted)
    (hb : withinBound s.maxatt ks) (hn : ks.length = 4)
    (hv : validate f (s.cfg.ackOf cmd) = some e) :
    Outcome i s cmd a (raiseError e (lostIf i
      { s.moved i w (some (buildFrame (s.cfg.opcode cmd) a))
          (commandEvents ks (buildFrame (s.cfg.opcode cmd) a) f) with rxf := some f }))
  /-- A command with one acknowledgement and nothing after it completed. -/
  | plainDone (w : Moved) (ks : List Nat) (f : Frame) (r : OpResult) (hw : w.counted)
    (hr : i.readsPayload = false)
    (hb : withinBound s.maxatt ks) (hn : ks.length = 4)
    (hv : validate f (s.cfg.ackOf cmd) = none) :
    Outcome i s cmd a (complete r
      { s.moved i w (some (buildFrame (s.cfg.opcode cmd) a))
          (commandEvents ks (buildFrame (s.cfg.opcode cmd) a) f) with rxf := some f })
  /-- The self test failed (R120). -/
  | selfTestFailed (w : Moved) (ks : List Nat) (f : Frame) (hw : w.counted)
    (hr : i.readsPayload = false)
    (hi : i = .runSelfTest ∨ ∃ a0 a1 a2, i = .cmdRunBist a0 a1 a2)
    (hb : withinBound s.maxatt ks) (hn : ks.length = 4)
    (hv : validate f (s.cfg.ackOf cmd) = none) :
    Outcome i s cmd a (raiseError .selfTestFailure
      { s.moved i w (some (buildFrame (s.cfg.opcode cmd) a))
          (commandEvents ks (buildFrame (s.cfg.opcode cmd) a) f) with rxf := some f })
  /-- The payload of a read timed out (R115, R119). -/
  | readTimeout (w : Moved) (ks ls : List Nat) (f : Frame) (cs : List Chunk) (hw : w.counted)
    (hr : i.readsPayload = true)
    (hb : withinBound s.maxatt (ks ++ ls)) (hn : ks.length = 4) (hl : ls.length < 16320)
    (hc : cs.length = ls.length) (hv : validate f (s.cfg.ackOf cmd) = none) :
    Outcome i s cmd a (raiseError .timeout (abandonRead
      { s.moved i w (some (buildFrame (s.cfg.opcode cmd) a))
          (commandEvents ks (buildFrame (s.cfg.opcode cmd) a) f ++ rcvdEvents ls cs ++
            silentEvents s.maxatt) with rxf := some f }))
  /-- A read completed, or was complete and its protect byte not zero (R124). -/
  | readDone (w : Moved) (ks ls : List Nat) (f : Frame) (cs : List Chunk) (t : State)
    (hw : w.counted) (hr : i.readsPayload = true)
    (hb : withinBound s.maxatt (ks ++ ls)) (hn : ks.length = 4) (hl : ls.length ≤ 16320)
    (hc : cs.length = ls.length) (hv : validate f (s.cfg.ackOf cmd) = none)
    (ht : let u : State := { s.moved i w (some (buildFrame (s.cfg.opcode cmd) a))
            (commandEvents ks (buildFrame (s.cfg.opcode cmd) a) f ++ rcvdEvents ls cs) with
            rxf := some f
            dbuf := s.dbuf.writeBytes 0 (cs.flatMap Chunk.bytes)
            dlen := BitVec.ofNat 17 (4 * ls.length), dvalid := true }
          (∃ r, t = complete r u) ∨
            t = raiseError .codeProtectVerifyFailure u ∧ i = .verifyCodeProtect)
    (hz : i.recvSize s.cfg = 4 * ls.length) :
    Outcome i s cmd a t
  /-- The payload of a write timed out (R116, R118). -/
  | writeTimeout (w : Moved) (v : Nat) (ks ls : List Nat) (f : Frame) (hw : w.counted)
    (hr : i.readsPayload = false)
    (hb : withinBound s.maxatt (ks ++ ls)) (hn : ks.length = 4)
    (hl : 4 * ls.length < i.sendSize s.cfg) (hs : i.sendSize s.cfg ≤ 65280)
    (hv : validate f (s.cfg.ackOf cmd) = none) :
    Outcome i s cmd a (raiseError .timeout
      { s.moved i w (some (buildFrame (s.cfg.opcode cmd) a))
          (commandEvents ks (buildFrame (s.cfg.opcode cmd) a) f ++
            sentEvents ls (chunksOf (payload s v (i.sendSize s.cfg))) ++
            silentEvents s.maxatt) with rxf := some f })
  /-- The second acknowledgement timed out (R113). -/
  | secondTimeout (w : Moved) (v : Nat) (ks ls ms : List Nat) (f : Frame) (cs : List Chunk)
    (hw : w.counted) (hr : i.readsPayload = false)
    (hb : withinBound s.maxatt (ks ++ ls ++ ms)) (hn : ks.length = 4)
    (hl : 4 * ls.length = i.sendSize s.cfg) (hs : i.sendSize s.cfg ≤ 65280) (hm : ms.length < 2)
    (hc : cs.length = ms.length) (hv : validate f (s.cfg.ackOf cmd) = none) :
    Outcome i s cmd a (raiseError .timeout
      { s.moved i w (some (buildFrame (s.cfg.opcode cmd) a))
          (commandEvents ks (buildFrame (s.cfg.opcode cmd) a) f ++
            sentEvents ls (chunksOf (payload s v (i.sendSize s.cfg))) ++ rcvdEvents ms cs ++
            silentEvents s.maxatt) with rxf := some f })
  /-- The second acknowledgement arrived and was judged (R113): `ACK_OF` of a write is `ACK_OK`. -/
  | writeEnd (w : Moved) (v : Nat) (ks ls ms : List Nat) (f g : Frame) (t : State)
    (hw : w.counted) (hr : i.readsPayload = false)
    (hb : withinBound s.maxatt (ks ++ ls ++ ms)) (hn : ks.length = 4)
    (hl : 4 * ls.length = i.sendSize s.cfg) (hs : i.sendSize s.cfg ≤ 65280) (hm : ms.length = 2)
    (hv : validate f (s.cfg.ackOf cmd) = none)
    (ht : let u : State := { s.moved i w (some (buildFrame (s.cfg.opcode cmd) a))
            (commandEvents ks (buildFrame (s.cfg.opcode cmd) a) f ++
              sentEvents ls (chunksOf (payload s v (i.sendSize s.cfg))) ++
              rcvdEvents ms (frameChunks g)) with rxf := some g }
          validate g (s.cfg.ackOf cmd) = none ∧ t = complete .nothing u ∨
            ∃ e, validate g (s.cfg.ackOf cmd) = some e ∧ t = raiseError e u) :
    Outcome i s cmd a t

theorem counted_of {x : BitVec 17} {n : Nat} (h : x.toNat % 4 = 0) (hx : x.toNat ≤ max 8 (4 * n))
    (hn : n ≤ 16320) : x.toNat % 4 = 0 ∧ x.toNat ≤ 65280 := ⟨h, by omega⟩

/-- The ends of a read, with what its rule does after the payload. -/
theorem readOutcome (i : Instr) (s : State) (cmd : Command) (a : Args) (n : Nat)
    (op : OpName) (hn : n ≤ 16320) (hr : i.readsPayload = true) (hz : i.recvSize s.cfg = 4 * n)
    (tail : State → Run OpResult)
    (ht : ∀ u, (∃ r, finish (tail u) = complete r u) ∨
      finish (tail u) = raiseError .codeProtectVerifyFailure u ∧ i = .verifyCodeProtect) :
    Outcome i s cmd a
      (finish ((readExchange cmd a (4 * n) (started (i.latched s) op s)).bind fun _ s1 => tail s1)) := by
  obtain ⟨r, l, d, p, x, q', ks, hb, hx, hx8, h⟩ :=
    readExchange_cases cmd a n (started (i.latched s) op s) (by omega)
  have hw := counted_of hx hx8 hn
  rcases h with ⟨cs, hk, hc, h⟩ | ⟨f, e, hk, hv, h⟩ | ⟨f, ls, cs, hk, hv, hl, hc, hln, h⟩ |
    ⟨f, ls, cs, hk, hv, hl, hc, hln, h⟩
  · rw [h]
    have := Outcome.commandTimeout (i := i) (s := s) (cmd := cmd) (a := a)
      ⟨q', true, r, l, d, p, x⟩ ks cs hw hb hk hc
    rwa [lostIf, hr] at this
  · rw [h]
    have := Outcome.badAck (i := i) (s := s) (cmd := cmd) (a := a)
          ⟨q', true, r, l, d, p, x⟩ ks f e hw hb hk hv
    rwa [lostIf, hr] at this
  · rw [h]
    exact .readTimeout ⟨q', true, r, l, d, p, x⟩ ks ls f cs hw hr (withinBound_append.2 ⟨hb, hl⟩)
      hk (by omega) hc hv
  · rw [h, Run.bind_ok]
    refine .readDone ⟨q', true, r, l, d, p, x⟩ ks ls f cs _ hw hr
      (withinBound_append.2 ⟨hb, hl⟩) hk (by omega) hc hv ?_ (by rw [hln, hz])
    rw [hln]
    exact ht _

/-- Every exchange ends in one of these ways. -/
theorem Exchange.outcome {i : Instr} {s t : State} {cmd : Command} {a : Args}
    (h : Exchange i s cmd a t) : Outcome i s cmd a t := by
  cases h with
  | sizeMismatch op hr hs hi => exact .sizeMismatch op hr hi
  | plain op tail ht hr hs hi =>
    obtain ⟨r, l, d, p, x, q', ks, hb, hx, hx8, ⟨f, hn, h⟩ | ⟨cs, hn, hc, h⟩⟩ :=
      transact_cases cmd a (started (i.latched s) op s)
    · cases hv : validate f ((started (i.latched s) op s).cfg.ackOf cmd) with
      | none =>
        simp only [hv] at h
        rw [h, Run.bind_ok]
        rcases ht.finish_cases f _ with ⟨v, h⟩ | ⟨h, e⟩
        · rw [h]
          exact .plainDone ⟨q', true, r, l, d, p, x⟩ ks f v ⟨hx, by simp only; omega⟩ hr hb hn hv
        · rw [h]
          exact .selfTestFailed ⟨q', true, r, l, d, p, x⟩ ks f ⟨hx, by simp only; omega⟩ hr
            (hi e) hb hn hv
      | some e =>
        simp only [hv] at h
        rw [h]
        have := Outcome.badAck (i := i) (s := s) (cmd := cmd) (a := a)
          ⟨q', true, r, l, d, p, x⟩ ks f e
          ⟨hx, by simp only; omega⟩ hb hn hv
        rwa [lostIf, hr] at this
    · rw [h]
      have := Outcome.commandTimeout (i := i) (s := s) (cmd := cmd) (a := a)
        ⟨q', true, r, l, d, p, x⟩ ks cs ⟨hx, by simp only; omega⟩ hb hn hc
      rwa [lostIf, hr] at this
  | read op n hn hr hz =>
    exact readOutcome i s cmd a n op hn hr hz (fun s1 => .ok .buffer s1)
      (fun u => .inl ⟨_, rfl⟩)
  | verify op hi =>
    refine readOutcome i s cmd a 64 op (by decide) (by rw [hi]; rfl) (by rw [hi]; rfl) testProtect fun u => ?_
    rcases testProtect_finish_cases u with h | h
    · exact .inl ⟨_, h⟩
    · exact .inr ⟨h, hi⟩
  | write op n hn hr hp hs hd hk =>
    obtain ⟨r, l, d, p, x, q', ks, b, hb, hx, hx8, ⟨v, rfl⟩, h⟩ :=
      writeExchange_cases cmd a n (started (i.latched s) op s) (by omega)
    have hw := counted_of hx hx8 hn
    have hpl : (List.range (4 * n)).map (fun o =>
        ((started (i.latched s) op s).dbuf.read? o).getD (Config.freeDbuf v o)) =
        payload s v (i.sendSize s.cfg) := by rw [hs]; rfl
    rw [hpl] at h
    rcases h with ⟨cs, hn, hc, h⟩ | ⟨f, e, hn, hv, h⟩ | ⟨f, ls, hn, hv, hl, hln, h⟩ |
      ⟨f, ls, ms, cs, hn, hv, hl, hln, hm, hmn, hc, h⟩ | ⟨f, ls, ms, g, hn, hv, hl, hln, hm, hmn, h⟩
    · rw [h]
      have := Outcome.commandTimeout (i := i) (s := s) (cmd := cmd) (a := a)
        ⟨q', true, r, l, d, p, x⟩ ks cs hw hb hn hc
      rwa [lostIf, hr] at this
    · rw [h]
      have := Outcome.badAck (i := i) (s := s) (cmd := cmd) (a := a)
          ⟨q', true, r, l, d, p, x⟩ ks f e hw hb hn hv
      rwa [lostIf, hr] at this
    · rw [h]
      exact .writeTimeout ⟨q', true, r, l, d, p, x⟩ v ks ls f hw hr (withinBound_append.2 ⟨hb, hl⟩)
        hn (by omega) (by omega) hv
    · rw [h]
      exact .secondTimeout ⟨q', true, r, l, d, p, x⟩ v ks ls ms f cs hw hr
        (withinBound_append.2 ⟨withinBound_append.2 ⟨hb, hl⟩, hm⟩) hn (by omega) (by omega) hmn hc hv
    · rw [h]
      refine .writeEnd ⟨q', true, r, l, d, p, x⟩ v ks ls ms f g _ hw hr
        (withinBound_append.2 ⟨withinBound_append.2 ⟨hb, hl⟩, hm⟩) hn (by omega) (by omega) hmn hv ?_
      simp only [hk, show (started (i.latched s) op s).cfg = s.cfg from rfl]
      cases hg : validate g s.cfg.ackOk with
      | none => exact .inl ⟨rfl, rfl⟩
      | some e => exact .inr ⟨e, rfl, rfl⟩

/-- An exchange that answers a next state was admitted, and ended in one of these ways. -/
theorem exec_exchange_outcome {i : Instr} {s t : State} {cmd : Command} {a : Args}
    (hi : i.exchange? s.cfg = some (cmd, a)) (h : exec i s = .next t) :
    s.Admits ∧ Outcome i s cmd a t :=
  ⟨(exec_exchange_next hi h).1, (exec_exchange_next hi h).2.outcome⟩

/-! ### The wire operations that run no exchange -/

/-- What receiving an acknowledgement frame comes to, with what the row does after it validates. -/
theorem ack_outcome {i : Instr} {s : State} (hq : i.latched s = s.req) (op : OpName) (o : Byte) (r : Args)
    (tail : Frame → State → Run OpResult) (ht : AckTail tail) :
    ∃ w ks, w.counted ∧ withinBound s.maxatt ks ∧
      let t := finish ((runAck op o r s).bind tail)
      ((∃ cs, ks.length < 2 ∧ cs.length = ks.length ∧
          t = raiseError .timeout (s.moved i w s.txf (rcvdEvents ks cs ++ silentEvents s.maxatt))) ∨
        ∃ f, ks.length = 2 ∧
          let u : State := { s.moved i w s.txf (rcvdEvents ks (frameChunks f)) with rxf := some f }
          ((∃ v, t = complete v u) ∨
            (∃ e, validate f o = some e ∧ t = raiseError e u) ∨
              t = raiseError .selfTestFailure u ∧ tail = testBist)) := by
  obtain ⟨ri, l, d, p, x, q, ks, hb, hx, hx8, h⟩ :=
    recvAck_cases .rxAck1 .valAck1 o (beginFrame op (deliverFrame (buildFrame o r) s))
  refine ⟨⟨q, true, ri, l, d, p, x⟩, ks, ⟨hx, by simp only; omega⟩, hb, ?_⟩
  simp only [State.moved, hq]
  rcases h with ⟨f, hn, h⟩ | ⟨cs, hn, hc, h⟩
  · refine .inr ⟨f, hn, ?_⟩
    simp only [runAck]
    cases hv : validate f o with
    | none =>
      simp only [hv] at h
      rw [h, Run.bind_ok]
      rcases ht.finish_cases f _ with ⟨v, h⟩ | ⟨h, e⟩
      · exact .inl ⟨v, h⟩
      · exact .inr (.inr ⟨h, e⟩)
    | some e =>
      simp only [hv] at h
      rw [h]
      exact .inr (.inl ⟨e, rfl, rfl⟩)
  · refine .inl ⟨cs, hn, hc, ?_⟩
    simp only [runAck]
    rw [h]
    simp [beginFrame, deliverFrame]

theorem exec_isReady_next {s t : State} (h : exec .isReady s = .next t) :
    s.Admits ∧ ∃ (w : Moved) (b : Bool), (w.xcnt = s.xcnt ∧ w.pollcnt = s.pollcnt) ∧
      t = complete (.ready b) (s.moved .isReady w s.txf [.poll b]) := by
  obtain ⟨ha, h⟩ := admitted_next (by exact h)
  obtain ⟨b, r, d, hb⟩ := sampleReady_cases (beginOp .isReady .isReady s)
  rw [hb] at h
  cases h
  exact ⟨ha, ⟨⟨.isReady, .check, 0⟩, true, r, s.linkIn, d, s.pollcnt, s.xcnt⟩, b, ⟨rfl, rfl⟩,
    rfl⟩

/-- WaitReady stops at its first true poll, or has made all of its polls (R92, R93). -/
theorem exec_waitReady_next {n : Nat} {s t : State} (h : exec (.waitReady n) s = .next t) :
    s.Admits ∧ n < 2 ^ 16 ∧ ∃ w : Moved, w.xcnt = s.xcnt ∧
      ((∃ k, k < n ∧ t = complete .nothing (s.moved (.waitReady n) w s.txf (gateEvents k))) ∨
        t = raiseError .timeout (s.moved (.waitReady n) w s.txf (List.replicate n (.poll false)))) := by
  obtain ⟨ha, h⟩ := admitted_next (by exact h)
  rcases narrow_cases 16 n with ⟨hn, e⟩ | ⟨_, e⟩ <;> rw [e] at h <;> cases h
  refine ⟨ha, hn, ?_⟩
  have hm : (BitVec.ofNat 16 n).toNat = n := by simp; omega
  obtain ⟨r, d, h⟩ := waitLoop_cases (BitVec.ofNat 16 n).toNat
    { beginOp .waitReady (.waitReady (BitVec.ofNat 16 n)) s with pollcnt := 0 }
  rw [hm] at h
  rw [waitReady, hm]
  rcases h with ⟨k, hk, h⟩ | h
  · refine ⟨⟨⟨.waitReady, .check, 0⟩, true, r, s.linkIn, d,
      0 + BitVec.ofNat 16 k, s.xcnt⟩, rfl, .inl ⟨k, hk, ?_⟩⟩
    rw [h]; rfl
  · refine ⟨⟨⟨.waitReady, .check, 0⟩, true, r, s.linkIn, d,
      0 + BitVec.ofNat 16 n, s.xcnt⟩, rfl, .inr ?_⟩
    rw [h]; rfl

/-- Send moves all its chunks, or times out at one (R101). -/
theorem exec_send_next {s t : State} (h : exec .send s = .next t) :
    s.Admits ∧ s.dlen.toNat ≤ 65280 ∧ s.dlen.toNat % 4 = 0 ∧ ∃ (w : Moved) (ks : List Nat),
      w.counted ∧ withinBound s.maxatt ks ∧
      ((4 * ks.length = s.dlen.toNat ∧ t = complete .nothing (s.moved .send w s.txf
          (sentEvents ks (chunksOf (dbufBytes s s.dlen.toNat))))) ∨
        (4 * ks.length < s.dlen.toNat ∧ t = raiseError .timeout (s.moved .send w s.txf
          (sentEvents ks (chunksOf (dbufBytes s s.dlen.toNat)) ++ silentEvents s.maxatt)))) := by
  obtain ⟨ha, h⟩ := admitted_next (by exact h)
  split at h
  · cases h
  next h1 =>
  split at h
  · cases h
  next h2 =>
  have h1 : s.dlen.toNat ≤ 65280 := Nat.le_of_not_lt h1
  have h2 : s.dlen.toNat % 4 = 0 := not_not.1 h2
  refine ⟨ha, h1, h2, ?_⟩
  obtain ⟨r, d, ks, hb, h'⟩ := sendChunks_cases (chunksOf (dbufBytes s s.dlen.toNat))
    (setPhase .txData (beginOp .send .send s))
  rw [chunksOf_dbufBytes_length] at h'
  rcases h' with ⟨hl, h'⟩ | ⟨hl, h'⟩ <;> rw [h'] at h <;> cases h
  · refine ⟨⟨⟨.send, .txData, BitVec.ofNat 17 (4 * (s.dlen.toNat / 4))⟩, true, r, s.linkIn,
      d, pollcntAfter s.pollcnt ks, BitVec.ofNat 17 (4 * (s.dlen.toNat / 4))⟩, ks, ⟨?_, ?_⟩, hb,
      .inl ⟨by omega, rfl⟩⟩ <;> simp only [BitVec.toNat_ofNat] <;> omega
  · refine ⟨⟨⟨.send, .txData, BitVec.ofNat 17 (4 * ks.length)⟩, true, r, s.linkIn,
      d, s.maxatt, BitVec.ofNat 17 (4 * ks.length)⟩, ks, ⟨?_, ?_⟩, hb, .inr ⟨by omega, ?_⟩⟩
    · simp only [BitVec.toNat_ofNat]; omega
    · simp only [BitVec.toNat_ofNat]; omega
    · simp [State.moved, setPhase, beginOp, Instr.latched]

/-- Receive stores all its chunks, or times out at one and loses them (R103). -/
theorem exec_receive_next {size : Nat} {s t : State} (h : exec (.receive size) s = .next t) :
    s.Admits ∧ size ≤ 65280 ∧ size % 4 = 0 ∧ ∃ (w : Moved) (ks : List Nat) (cs : List Chunk),
      w.counted ∧ withinBound s.maxatt ks ∧ cs.length = ks.length ∧
      ((4 * ks.length = size ∧ t = complete .buffer { s.moved (.receive size) w s.txf (rcvdEvents ks cs) with
          dbuf := s.dbuf.writeBytes 0 (cs.flatMap Chunk.bytes)
          dlen := BitVec.ofNat 17 (4 * ks.length), dvalid := true }) ∨
        (4 * ks.length < size ∧ t = raiseError .timeout (abandonRead
          (s.moved (.receive size) w s.txf (rcvdEvents ks cs ++ silentEvents s.maxatt))))) := by
  obtain ⟨ha, h⟩ := admitted_next (by exact h)
  split at h
  · cases h
  next h1 =>
  split at h
  · cases h
  next h2 =>
  have h1 : size ≤ 65280 := Nat.le_of_not_lt h1
  have h2 : size % 4 = 0 := not_not.1 h2
  obtain ⟨n, rfl⟩ : ∃ n, size = 4 * n := ⟨size / 4, by omega⟩
  refine ⟨ha, h1, h2, ?_⟩
  obtain ⟨r, l, d, ks, cs, hb, hc, h'⟩ := recvPayload_cases n
    (setPhase .rxData (beginOp .receive (.receive (BitVec.ofNat 17 (4 * n))) s)) (by omega)
  rcases h' with ⟨hl, h'⟩ | ⟨hl, h'⟩ <;> rw [h'] at h <;> cases h
  · refine ⟨⟨⟨.receive, .rxData, BitVec.ofNat 17 (4 * n)⟩,
      true, r, l, d, pollcntAfter s.pollcnt ks, BitVec.ofNat 17 (4 * n)⟩, ks, cs, ⟨?_, ?_⟩, hb, hc,
      .inl ⟨by omega, ?_⟩⟩
    · simp only [BitVec.toNat_ofNat]; omega
    · simp only [BitVec.toNat_ofNat]; omega
    · rw [hl]; rfl
  · refine ⟨⟨⟨.receive, .rxData, BitVec.ofNat 17 (4 * ks.length)⟩, true, r, l, d, s.maxatt,
      BitVec.ofNat 17 (4 * ks.length)⟩, ks, cs, ⟨?_, ?_⟩, hb, hc, .inr ⟨by omega, ?_⟩⟩
    · simp only [BitVec.toNat_ofNat]; omega
    · simp only [BitVec.toNat_ofNat]; omega
    · simp [State.moved, setPhase, beginOp, abandonRead, Instr.latched]

end Sys2Proof.Machine
end

