-- ==== Sys2Proof/Laws/HostPort.lean ====
section
/-! SUPPORT. What one HOST action, and so one step, can do. -/

namespace Sys2Proof.Machine

theorem andThen_next {a : Answer} {k : State → Answer} {t : State} (h : andThen a k = .next t) :
    ∃ u, a = .next u ∧ k u = .next t := by
  cases a <;> first | exact ⟨_, rfl, h⟩ | cases h

/-- A request that answers a next state decodes to an instruction and runs it. -/
theorem runRequest_next {r : List Byte} {s t : State} (h : runRequest r s = .next t) :
    ∃ i, decode s.cfg r = .ok i ∧ exec i s = .next t := by
  simp only [runRequest] at h
  split at h
  · next i hi => exact ⟨i, hi, h⟩
  · cases h

/-- Delivering a line's buffer leaves the state alone or fills `DBUF` within its capacity. -/
theorem deliverBuffer_next {b : Option (List Byte)} {s u : State} (h : deliverBuffer b s = .next u) :
    u = s ∨ ∃ data, b = some data ∧ data.length ≤ Config.dbufCapacity ∧ u = fillBuffer data s := by
  cases b with
  | none => cases h; exact .inl rfl
  | some data =>
    obtain ⟨-, h⟩ := unlessBusy_next (by exact h)
    split at h <;> cases h
    next hl => exact .inr ⟨data, rfl, hl, rfl⟩

/-- What follows an operation of a program shows in the HOST's queue only. -/
theorem continueProgram_eq (more : List ProgramLine) (t : State) :
    continueProgram more t = { t with hostQ := (continueProgram more t).hostQ } := by
  simp only [continueProgram]; split <;> rfl

/-- A line of a program: its buffer is delivered, and its operation is run as any other; only the HOST's
queue shows that it was one of a program. -/
theorem runProgram_next {ls : List ProgramLine} {s t : State} (h : runProgram ls s = .next t) :
    (ls = [] ∧ t = s) ∨ ∃ l more s1 u, ls = l :: more ∧ deliverBuffer l.buffer s = .next s1 ∧
      runRequest l.request s1 = .next u ∧ t = { u with hostQ := t.hostQ } := by
  cases ls with
  | nil => cases h; exact .inl ⟨rfl, rfl⟩
  | cons l more =>
    obtain ⟨s1, h1, h⟩ := andThen_next (by exact h)
    obtain ⟨u, hu, h⟩ := andThen_next (by exact h)
    cases h
    exact .inr ⟨l, more, s1, u, rfl, h1, hu, continueProgram_eq _ _⟩

/-- What follows the readiness check shows in the HOST's queue and its error only. -/
theorem afterReadinessCheck_eq (t : State) : afterReadinessCheck t =
    { t with hostQ := (afterReadinessCheck t).hostQ, hostError := (afterReadinessCheck t).hostError } := by
  simp only [afterReadinessCheck]; split <;> rfl
theorem afterReadinessCheck_failed {t : State} (h : t.status ≠ .ok ∨ t.result = .ready false) :
    afterReadinessCheck t =
      { t with hostError := some .moduleNotDetected, hostQ := teardownSequence } :=
  if_pos (decide_eq_true h)
theorem afterReadinessCheck_passed {t : State} (h : t.status = .ok) (h' : t.result ≠ .ready false) :
    afterReadinessCheck t =
      { t with hostError := none, hostQ := .setPmode false :: .start [6] :: t.hostQ } :=
  if_neg (by simp [checkFailed, h, h'])

/-- A HOST action that answers a next state runs an instruction (of a program after filling the
buffer with its line's data, if it has some), resets the engine, fills the buffer, sets its length, or moves only the HOST's own side of the port. -/
theorem hostStep_next {a : HostAct} {s t : State} (h : hostStep a s = .next t) :
    (∃ r i s1 u, a ≠ .engineReset ∧ decode s.cfg r = .ok i ∧
      (s1 = s ∨ ∃ data : List Byte, data.length ≤ Config.dbufCapacity ∧ s1 = fillBuffer data s) ∧
      exec i s1 = .next u ∧ t = { u with hostQ := t.hostQ, hostError := t.hostError }) ∨
    (a = .engineReset ∧ t = engineReset s) ∨
    (∃ off data, a = .writeDbuf off data ∧ off + data.length ≤ Config.dbufCapacity ∧
      t = { s with dbuf := s.dbuf.writeBytes off data }) ∨
    (∃ n, a = .writeDlen n ∧ n ≤ Config.dbufCapacity ∧ t = { s with dlen := BitVec.ofNat 17 n }) ∨
    (a ≠ .engineReset ∧ t = { s with
      isOpen := t.isOpen, maxatt := t.maxatt, portValue := t.portValue
      pmode := t.pmode, resetLine := t.resetLine }) := by
  cases a <;> simp only [hostStep] at h
  case start r =>
    obtain ⟨i, hi, h⟩ := runRequest_next h
    exact .inl ⟨r, i, s, t, nofun, hi, .inl rfl, h, rfl⟩
  case program rs =>
    rcases runProgram_next h with ⟨-, rfl⟩ | ⟨l, more, s1, u, -, h1, hr, ht⟩
    · exact .inr (.inr (.inr (.inr ⟨nofun, rfl⟩)))
    · obtain ⟨i, hi, hu⟩ := runRequest_next hr
      rcases deliverBuffer_next h1 with rfl | ⟨data, -, hl, rfl⟩
      · exact .inl ⟨l.request, i, s1, u, nofun, hi, .inl rfl, hu, by rw [ht]⟩
      · exact .inl ⟨l.request, i, _, u, nofun, hi, .inr ⟨data, hl, rfl⟩, hu, by rw [ht]⟩
  case confirmReady check =>
    obtain ⟨u, hu, h⟩ := andThen_next (by exact h)
    cases h
    obtain ⟨i, hi, hu⟩ := runRequest_next hu
    exact .inl ⟨check, i, s, u, nofun, hi, .inl rfl, hu, afterReadinessCheck_eq u⟩
  case engineReset => cases h; exact .inr (.inl ⟨rfl, rfl⟩)
  case setOpen =>
    obtain ⟨-, h⟩ := unlessBusy_next (by exact h)
    cases h; exact .inr (.inr (.inr (.inr ⟨nofun, rfl⟩)))
  case writeMaxatt =>
    obtain ⟨-, h⟩ := unlessBusy_next (by exact h)
    split at h <;> cases h
    exact .inr (.inr (.inr (.inr ⟨nofun, rfl⟩)))
  case writeDbuf off data =>
    obtain ⟨-, h⟩ := unlessBusy_next (by exact h)
    split at h <;> cases h
    next hl => exact .inr (.inr (.inl ⟨off, data, rfl, hl, rfl⟩))
  case writeDlen n =>
    obtain ⟨-, h⟩ := unlessBusy_next (by exact h)
    split at h <;> cases h
    next hl => exact .inr (.inr (.inr (.inl ⟨n, rfl, hl, rfl⟩)))
  case setPmode => cases h; exact .inr (.inr (.inr (.inr ⟨nofun, rfl⟩)))
  case setResetLine => cases h; exact .inr (.inr (.inr (.inr ⟨nofun, rfl⟩)))
  case read p =>
    refine .inr (.inr (.inr (.inr ⟨nofun, ?_⟩)))
    cases p <;> simp only [readPort, answerRead, readFrame] at h <;>
      first
        | (cases h; rfl)
        | (obtain ⟨-, h⟩ := unlessBusy_next (by exact h); cases h; rfl)
        | skip
    all_goals repeat' split at h
    all_goals cases h
    all_goals rfl

/-- Several steps are one step and the rest. -/
theorem run_succ (M : Host.Core) {k : Nat} {u v : M.State} (h : M.step u = .next v) :
    M.run (k + 1) u = M.run k v := by simp [Host.Core.run, h]
theorem run_one (M : Host.Core) (u : M.State) : M.run 1 u = M.step u := by
  simp only [Host.Core.run]; cases M.step u <;> rfl

/-- A step does nothing while the HOST has no action, else the HOST's next action. -/
theorem step_next {s t : State} (h : step s = .next t) :
    (s.hostQ = [] ∧ t = s) ∨
      ∃ a rest, s.hostQ = a :: rest ∧ hostStep a { s with hostQ := rest } = .next t := by
  simp only [step, runNext] at h
  split at h
  · next hq => cases h; exact .inl ⟨hq, rfl⟩
  · next a rest hq => exact .inr ⟨a, rest, hq, h⟩

end Sys2Proof.Machine
end

