-- ==== Sys2Proof/Laws/PerInstr.lean ====
section
/-! SUPPORT. A law of each instruction as syntax: its encoding is 8 bytes for a frame (R60, R63), and for
an operation its selector byte (R61) followed by as many operand bytes as `operandBytes` lists (R62,
log entry 2). -/

namespace Sys2Proof.Laws.EncodedLength

/-- The length of an instruction's encoding. -/
def Statement (i : Instr) : Prop :=
  ∀ c : Config, (encode c i).length = match i.opsel? with
    | some op => 1 + operandBytes op.toNat
    | none => 8

theorem cmdReadSwVersion (a0 a1 a2 : Byte) : Statement (.cmdReadSwVersion a0 a1 a2) := fun _ => rfl
theorem cmdReadFlashPage (a0 a1 a2 : Byte) : Statement (.cmdReadFlashPage a0 a1 a2) := fun _ => rfl
theorem cmdWriteProgramArea (a0 a1 a2 : Byte) : Statement (.cmdWriteProgramArea a0 a1 a2) := fun _ => rfl
theorem cmdWriteFlashPage (a0 a1 a2 : Byte) : Statement (.cmdWriteFlashPage a0 a1 a2) := fun _ => rfl
theorem cmdWriteFlashByte (a0 a1 a2 : Byte) : Statement (.cmdWriteFlashByte a0 a1 a2) := fun _ => rfl
theorem cmdRunBist (a0 a1 a2 : Byte) : Statement (.cmdRunBist a0 a1 a2) := fun _ => rfl
theorem cmdReadProgramArea (a0 a1 a2 : Byte) : Statement (.cmdReadProgramArea a0 a1 a2) := fun _ => rfl
theorem ackOk (a0 a1 a2 : Byte) : Statement (.ackOk a0 a1 a2) := fun _ => rfl
theorem ackVersion (a0 a1 a2 : Byte) : Statement (.ackVersion a0 a1 a2) := fun _ => rfl
theorem ackBist (a0 a1 a2 : Byte) : Statement (.ackBist a0 a1 a2) := fun _ => rfl
theorem buildCommand (o a0 a1 a2 : Byte) : Statement (.buildCommand o a0 a1 a2) := fun _ => rfl
theorem validateResponse (f : Frame) (e : Byte) : Statement (.validateResponse f e) := fun _ => rfl
theorem isReady : Statement .isReady := fun _ => rfl
theorem waitReady (n : Nat) : Statement (.waitReady n) := fun _ => rfl
theorem send : Statement .send := fun _ => rfl
theorem receive (n : Nat) : Statement (.receive n) := fun _ => rfl
theorem readSwVersion : Statement .readSwVersion := fun _ => rfl
theorem readPage (p n : Nat) : Statement (.readPage p n) := fun _ => rfl
theorem writePage (p : Nat) : Statement (.writePage p) := fun _ => rfl
theorem writeByte (a v : Nat) : Statement (.writeByte a v) := fun _ => rfl
theorem writeProgramArea (n : Nat) : Statement (.writeProgramArea n) := fun _ => rfl
theorem readProgramArea (n : Nat) : Statement (.readProgramArea n) := fun _ => rfl
theorem runSelfTest : Statement .runSelfTest := fun _ => rfl
theorem setCodeProtect : Statement .setCodeProtect := fun _ => rfl
theorem verifyCodeProtect : Statement .verifyCodeProtect := fun _ => rfl

end Sys2Proof.Laws.EncodedLength
end

