-- ==== Sys2Proof/Laws/Relabel.lean ====
section
/-! SUPPORT. No operation of the wire looks at which request or operation it runs for: changing `REQ` and
`SEQ.op` beforehand is changing them afterwards. -/

namespace Sys2Proof.Machine

/-- The same state, run for another request and operation. -/
def State.relabel (q : Option Request) (o : OpName) (s : State) : State :=
  { s with req := q, seq := { s.seq with op := o } }

/-- Change the state an outcome holds. -/
def Run.mapState {α : Type} (f : State → State) : Run α → Run α
  | .ok a s => .ok a (f s)
  | .raised e s => .raised e (f s)

variable (q : Option Request) (o : OpName)

theorem Run.mapState_bind {α β : Type} (f : State → State) (r : Run α) (k : α → State → Run β)
    (hk : ∀ a s, k a (f s) = (k a s).mapState f) :
    (r.mapState f).bind k = (r.bind k).mapState f := by
  cases r with
  | ok a s => exact hk a s
  | raised e s => rfl

theorem sampleReady_relabel (s : State) :
    sampleReady (s.relabel q o) = ((sampleReady s).1, (sampleReady s).2.relabel q o) := by
  cases h : s.readyIn <;> simp [sampleReady, nextReady, State.relabel, h, record]

theorem rxChunk_relabel (s : State) :
    rxChunk (s.relabel q o) = ((rxChunk s).1, (rxChunk s).2.relabel q o) := by
  cases h : s.linkIn <;> simp [rxChunk, nextChunk, State.relabel, h, record]

theorem waitLoop_relabel (n : Nat) (s : State) :
    waitLoop n (s.relabel q o) = (waitLoop n s).mapState (State.relabel q o) := by
  induction n generalizing s with
  | zero => rfl
  | succ n ih =>
    simp only [waitLoop, sampleReady_relabel]
    split
    · rfl
    · exact ih { (sampleReady s).2 with pollcnt := (sampleReady s).2.pollcnt + 1 }

theorem gate_relabel (s : State) :
    gate (s.relabel q o) = (gate s).mapState (State.relabel q o) := by
  simp only [gate, sampleReady_relabel]
  split
  · rfl
  · exact waitLoop_relabel q o _ { (sampleReady s).2 with pollcnt := 0 }

theorem sendLoop_relabel (cs : List Chunk) (s : State) :
    sendLoop cs (s.relabel q o) = (sendLoop cs s).mapState (State.relabel q o) := by
  induction cs generalizing s with
  | nil => rfl
  | cons c cs ih =>
    rw [sendLoop, gate_relabel, Run.mapState_bind _ _ _ fun _ s1 => ih (advance (txChunk c s1))]
    rfl

theorem recvChunk_relabel (s : State) :
    recvChunk (s.relabel q o) = (recvChunk s).mapState (State.relabel q o) := by
  rw [recvChunk, gate_relabel, Run.mapState_bind]
  · rfl
  · intro _ s1
    rw [rxChunk_relabel]; rfl

theorem recvFrame_relabel (s : State) :
    recvFrame (s.relabel q o) = (recvFrame s).mapState (State.relabel q o) := by
  rw [recvFrame, show startTransfer (s.relabel q o) = (startTransfer s).relabel q o from rfl,
    recvChunk_relabel, Run.mapState_bind]
  · rfl
  · intro c s1
    rw [recvChunk_relabel, Run.mapState_bind]
    intro d s2; rfl

theorem recvAck_relabel (rx val : Phase) (e : Byte) (s : State) :
    recvAck rx val e (s.relabel q o) = (recvAck rx val e s).mapState (State.relabel q o) := by
  rw [recvAck, show setPhase rx (s.relabel q o) = (setPhase rx s).relabel q o from rfl,
    recvFrame_relabel, Run.mapState_bind]
  · rfl
  · intro f s1; cases validate f e <;> rfl

theorem transact_relabel (cmd : Command) (a : Args) (s : State) :
    transact cmd a (s.relabel q o) = (transact cmd a s).mapState (State.relabel q o) := by
  rw [transact, sendChunks,
    show startTransfer (setPhase .txCmd (buildTxf ((s.relabel q o).cfg.opcode cmd) a
        (setPhase .build (s.relabel q o)))) =
      (startTransfer (setPhase .txCmd (buildTxf (s.cfg.opcode cmd) a
        (setPhase .build s)))).relabel q o from rfl,
    sendLoop_relabel, Run.mapState_bind]
  · rfl
  · intro _ s1
    exact recvAck_relabel q o _ _ _ s1

/-- What ends an operation overwrites `SEQ`, so only the request stays relabelled. -/
theorem finish_relabel (r : Run OpResult) :
    finish (r.mapState (State.relabel q o)) = { finish r with req := q } := by cases r <;> rfl

/-- Write-flash-byte, whoever runs it (R117, R123). -/
theorem runWriteByte_relabel (a : Args) (s : State) :
    finish (runWriteByte a (s.relabel q o)) = { finish (runWriteByte a s) with req := q } := by
  rw [runWriteByte, plainExchange, transact_relabel, Run.mapState_bind, finish_relabel]
  · rfl
  · intro _ _; rfl

end Sys2Proof.Machine
end

