-- ==== Sys2Proof/Tests/Slice0.lean ====
section
/-! SUPPORT. The model's own tests. Expected results come from spec/95_test_vectors.md (the vector's name
stands in each test's comment), from the encoding tables of spec/30_encoding.md, or from hand
calculation by the rule cited. All runs are under the spec's reference configuration `REF` (R8) and
a scripted MODULE. -/

namespace Sys2Proof.Tests

open Machine

/-! ### Small states -/

/-- After engine reset and `OPEN <- 1`, under `REF`. -/
def base : State := { State.reset with cfg := Config.ref, isOpen := true }

/-- The same with the MODULE's answers written down. -/
def scripted (ready : List Bool) (link : List Chunk) : State :=
  { base with readyIn := ready, linkIn := link }

/-- A MODULE that is always ready, for `n` polls, and sends these frames and chunks. -/
def alwaysReady (n : Nat) (link : List Chunk) : State := scripted (List.replicate n true) link

/-- "ok" of the test vectors: `A5 5A A5 08 00 00 00 AD`. -/
def ok : Frame := ⟨0xA5, 0x5A, 0xA5, 0x08, 0x00, 0x00, 0x00, 0xAD⟩

/-- The 8 bytes of V-D1. -/
def d1 : Memory :=
  [(0, 0xA5), (1, 0x5A), (2, 0xA5), (3, 0x4B), (4, 0x00), (5, 0x00), (6, 0x00), (7, 0xF0)]

/-- One view of the next state an answer gives, if it gives one. -/
def view {α : Type} (f : State → α) : Answer → Option α
  | .next s => some (f s)
  | .fault _ => none
  | .refused _ => none

/-- The refusal an answer is, if it is one. -/
def refusal : Answer → Option Refusal
  | .refused r => some r
  | .next _ => none
  | .fault _ => none

/-! ### WellFormed: an ill-formed term for each check -/

theorem test_wf_waitReady_wide : (Instr.waitReady 65536).wf = false := by decide
theorem test_wf_receive_wide : (Instr.receive 131072).wf = false := by decide
theorem test_wf_readPage_index : (Instr.readPage 256 1).wf = false := by decide
theorem test_wf_readPage_count : (Instr.readPage 1 256).wf = false := by decide
theorem test_wf_writePage_index : (Instr.writePage 256).wf = false := by decide
theorem test_wf_writeByte_address : (Instr.writeByte 65536 0).wf = false := by decide
theorem test_wf_writeByte_value : (Instr.writeByte 0 256).wf = false := by decide
theorem test_wf_writeProgramArea_count : (Instr.writeProgramArea 256).wf = false := by decide
theorem test_wf_readProgramArea_count : (Instr.readProgramArea 256).wf = false := by decide

/-! ### Decoding: every constructor, by bytes written out from R60, R63, R61 and R62 -/

/-- `REF` with the three acknowledgement opcodes apart, so that each frame has its own row. -/
def apart : Config := { Config.ref with ackVersion := 0x09, ackBist := 0x0A }

/-- Command frames: sync `A5 5A A5`, opcode, three arguments, checksum (V-A7 to V-A18). -/
theorem test_decode_command_frames :
    decode apart [0xA5, 0x5A, 0xA5, 0x01, 0x00, 0x00, 0x00, 0xA6] = .ok (.cmdReadSwVersion 0 0 0) ∧
    decode apart [0xA5, 0x5A, 0xA5, 0x02, 0x21, 0x01, 0x00, 0xC9] =
      .ok (.cmdReadFlashPage 0x21 0x01 0) ∧
    decode apart [0xA5, 0x5A, 0xA5, 0x03, 0x02, 0x00, 0x00, 0xAA] =
      .ok (.cmdWriteProgramArea 0x02 0 0) ∧
    decode apart [0xA5, 0x5A, 0xA5, 0x04, 0x20, 0x00, 0x00, 0xC9] =
      .ok (.cmdWriteFlashPage 0x20 0 0) ∧
    decode apart [0xA5, 0x5A, 0xA5, 0x05, 0x20, 0x00, 0x02, 0xCC] =
      .ok (.cmdWriteFlashByte 0x20 0x00 0x02) ∧
    decode apart [0xA5, 0x5A, 0xA5, 0x06, 0x00, 0x00, 0x00, 0xAB] = .ok (.cmdRunBist 0 0 0) ∧
    decode apart [0xA5, 0x5A, 0xA5, 0x07, 0x01, 0x00, 0x00, 0xAD] =
      .ok (.cmdReadProgramArea 0x01 0 0) := by decide

/-- Acknowledgement frames (R63; V-B9 for the first): `0xA5 + 0x09 + 1 + 2 + 3 = 0xB4`,
`0xA5 + 0x0A + 5 = 0xB4`. -/
theorem test_decode_acknowledgement_frames :
    decode apart [0xA5, 0x5A, 0xA5, 0x08, 0x01, 0x02, 0x03, 0xB3] = .ok (.ackOk 1 2 3) ∧
    decode apart [0xA5, 0x5A, 0xA5, 0x09, 0x01, 0x02, 0x03, 0xB4] = .ok (.ackVersion 1 2 3) ∧
    decode apart [0xA5, 0x5A, 0xA5, 0x0A, 0x05, 0x00, 0x00, 0xB4] = .ok (.ackBist 5 0 0) := by
  decide

/-- Operations: the selector of R61, then the operands of R62. -/
theorem test_decode_operations_0_to_7 :
    decode apart [0x00, 0x4B, 0x01, 0x02, 0x03] = .ok (.buildCommand 0x4B 1 2 3) ∧
    decode apart [0x01, 0xA5, 0x5A, 0xA5, 0x08, 0x00, 0x00, 0x00, 0xAD, 0x08] =
      .ok (.validateResponse ok 0x08) ∧
    decode apart [0x02] = .ok .isReady ∧
    decode apart [0x03, 0x01, 0xF4] = .ok (.waitReady 500) ∧
    decode apart [0x04] = .ok .send ∧
    decode apart [0x05, 0x00, 0x01, 0x08] = .ok (.receive 264) ∧
    decode apart [0x06] = .ok .readSwVersion ∧
    decode apart [0x07, 0x21, 0x02] = .ok (.readPage 0x21 2) := by decide

theorem test_decode_operations_8_to_14 :
    decode apart [0x08, 0x20] = .ok (.writePage 0x20) ∧
    decode apart [0x09, 0x20, 0x01, 0x7F] = .ok (.writeByte 0x2001 0x7F) ∧
    decode apart [0x0A, 0x02] = .ok (.writeProgramArea 2) ∧
    decode apart [0x0B, 0x03] = .ok (.readProgramArea 3) ∧
    decode apart [0x0C] = .ok .runSelfTest ∧
    decode apart [0x0D] = .ok .setCodeProtect ∧
    decode apart [0x0E] = .ok .verifyCodeProtect := by decide

/-- R67: sync, checksum, unknown opcode, the reserved selector, lengths. -/
theorem test_decode_rejects :
    decode apart [0xA5, 0x5B, 0xA5, 0x08, 0x00, 0x00, 0x00, 0xAD] = .bad .badSync ∧
    decode apart [0xA5, 0x5A, 0xA5, 0x08, 0x00, 0x00, 0x00, 0xAE] = .bad .badChecksum ∧
    decode apart [0xA5, 0x5A, 0xA5, 0x4B, 0x00, 0x00, 0x00, 0xF0] = .bad .unknownOpcode ∧
    decode apart [0x0F] = .bad .reservedSelector ∧
    decode apart [0x10] = .bad .badSelectorByte ∧
    decode apart [0x02, 0x00] = .bad .wrongLength ∧
    decode apart [0x05, 0x02, 0x00, 0x00] = .bad .sizeTooWide ∧
    decode apart [] = .bad .empty := by decide

/-- The fifteen selectors of the opcode table decode, with operand bytes of zeros, and the sixteenth does
not. -/
theorem test_table_words :
    (∀ k < 15, (decodeTableWord 8 k).isSome = true) ∧ decodeTableWord 8 15 = none ∧
    decodeTableWord 8 9 = some (.writeByte 0 0) := by decide

/-- Each of them runs as the first instruction after reset. -/
theorem test_first_step_after_reset :
    ∀ k < 15, (view (fun _ => ()) (step (State.reset.withFetchWord 8 k))).isSome = true := by decide

/-! ### The codec -/

/-- V-A1: the checksum is 0xF0, not the 0x4B of the source's scenario (C1). -/
theorem test_buildCommand_A1 : view (fun t => t.txf) (exec (.buildCommand 0x4B 0 0 0) base) =
    some (some ⟨0xA5, 0x5A, 0xA5, 0x4B, 0x00, 0x00, 0x00, 0xF0⟩) := by decide

/-- V-A3: a sum that wraps. -/
theorem test_buildCommand_A3 : view (fun t => t.txf)
    (exec (.buildCommand 0xFF 0xFF 0xFF 0xFF) { base with err := true, isOpen := false }) =
    some (some ⟨0xA5, 0x5A, 0xA5, 0xFF, 0xFF, 0xFF, 0xFF, 0xA1⟩) := by decide

/-- V-B2, V-B6, V-B7, V-B4, V-B3, V-B9: the order of the three tests, and which bytes the sum covers. -/
theorem test_validate_B :
    validate ⟨0xA5, 0x5A, 0xA5, 0x08, 0, 0, 0, 0xAE⟩ 0x08 = some .checksumMismatch ∧
    validate ⟨0xA5, 0x5A, 0xA4, 0x08, 0, 0, 0, 0xAD⟩ 0x08 = some .checksumMismatch ∧
    validate ⟨0xA5, 0x5A, 0xA4, 0x08, 0, 0, 0, 0xAC⟩ 0x08 = some .unexpectedResponse ∧
    validate ⟨0xA4, 0x5A, 0xA5, 0x08, 0, 0, 0, 0xAD⟩ 0x08 = some .unexpectedResponse ∧
    validate ⟨0xA5, 0x5A, 0xA5, 0x09, 0, 0, 0, 0xAE⟩ 0x08 = some .unexpectedResponse ∧
    validate ⟨0xA5, 0x5A, 0xA5, 0x08, 1, 2, 3, 0xB3⟩ 0x08 = none := by decide

/-- V-B8 as an operation: everything wrong, the checksum is named, and no `ERR` (R83). -/
theorem test_validateResponse_B8 : view (fun t => (t.status, t.err))
    (exec (.validateResponse ⟨0xA4, 0x5A, 0xA5, 0x09, 0, 0, 0, 0⟩ 0x08) base) =
    some (.error .checksumMismatch, false) := by decide

/-! ### The readiness gate -/

/-- V-C2. -/
theorem test_isReady_C2 : view (fun t => (t.status, t.result, t.hist, t.pollcnt))
    (exec .isReady { scripted [false, true] [] with pollcnt := 7 }) =
    some (.ok, .ready false, [.poll false], 7) := by decide

/-- V-C4. -/
theorem test_waitReady_C4 : view (fun t => (t.status, t.hist, t.pollcnt))
    (exec (.waitReady 500) (scripted [false, false, true] [])) =
    some (.ok, [.poll false, .poll false, .poll true], 2) := by decide

/-- V-C7: the fourth answer is never sampled. -/
theorem test_waitReady_C7 : view (fun t => (t.status, t.err, t.pollcnt, t.readyIn))
    (exec (.waitReady 3) (scripted [false, false, false, true] [])) =
    some (.error .timeout, true, 3, [true]) := by decide

/-! ### The transport -/

/-- V-D2: the second gate fails its immediate check, then one attempt. -/
theorem test_send_D2 : view (fun t => (t.status, t.xcnt, t.pollcnt, t.hist))
    (exec .send { scripted [true, false, false, true] [] with dbuf := d1, dlen := 8 }) =
    some (.ok, 8, 1, [.poll true, .tx ⟨0xA5, 0x5A, 0xA5, 0x4B⟩, .poll false, .poll false, .poll true,
      .tx ⟨0x00, 0x00, 0x00, 0xF0⟩]) := by decide

/-- V-D12: with `MAXATT = 0` WaitReady makes no poll. -/
theorem test_send_D12 : view (fun t => (t.status, t.xcnt, t.hist))
    (exec .send { scripted [true, false] [] with dbuf := d1, dlen := 8, maxatt := 0 }) =
    some (.error .timeout, 4, [.poll true, .tx ⟨0xA5, 0x5A, 0xA5, 0x4B⟩, .poll false]) := by decide

/-- V-D7. -/
theorem test_receive_D7 : view (fun t => (t.status, t.xcnt, dbufBytes t 8, t.dlen, t.dvalid))
    (exec (.receive 8) (alwaysReady 2 (frameChunks ok))) =
    some (.ok, 8, [0xA5, 0x5A, 0xA5, 0x08, 0, 0, 0, 0xAD], 8, true) := by decide

/-- V-D10 and V-D6. -/
theorem test_transfer_D10_D6 :
    refusal (exec (.receive 10) base) = some .lengthNotChunkMultiple ∧
    refusal (exec .send { base with dlen := 6 }) = some .lengthNotChunkMultiple := by decide

/-! ### Flash Page Access -/

/-- V-F1. -/
theorem test_readSwVersion_F1 : view (fun t => (t.status, t.result, t.txf))
    (exec .readSwVersion (alwaysReady 4 (frameChunks ⟨0xA5, 0x5A, 0xA5, 0x08, 1, 2, 3, 0xB3⟩))) =
    some (.ok, .version 1 2 3, some ⟨0xA5, 0x5A, 0xA5, 0x01, 0, 0, 0, 0xA6⟩) := by decide

/-- The same by its frame: no request is latched. -/
theorem test_cmdReadSwVersion_F1 : view (fun t => (t.status, t.result, t.req))
    (exec (.cmdReadSwVersion 0 0 0)
      (alwaysReady 4 (frameChunks ⟨0xA5, 0x5A, 0xA5, 0x08, 1, 2, 3, 0xB3⟩))) =
    some (.ok, .version 1 2 3, none) := by decide

/-- V-F3: no page, `OK` with an empty buffer. -/
theorem test_readPage_F3 : view (fun t => (t.status, t.dlen, t.dvalid, polls t.hist, t.txf))
    (exec (.readPage 0x20 0) (alwaysReady 4 (frameChunks ok))) =
    some (.ok, 0, true, 4, some ⟨0xA5, 0x5A, 0xA5, 0x02, 0x20, 0, 0, 0xC7⟩) := by decide

/-- V-F21: the command echoed is no acknowledgement, and no payload is read. -/
theorem test_readPage_F21 : view (fun t => (t.status, t.err, t.dvalid, t.linkIn))
    (exec (.readPage 0x20 1)
      (alwaysReady 9 (frameChunks ⟨0xA5, 0x5A, 0xA5, 0x02, 0x20, 1, 0, 0xC8⟩ ++ [⟨1, 2, 3, 4⟩]))) =
    some (.error .unexpectedResponse, true, false, [⟨1, 2, 3, 4⟩]) := by decide

/-- P1's shape by the frame, no page: the page count is read back from arg1. -/
theorem test_cmdReadFlashPage_none : view (fun t => (t.status, t.dlen, polls t.hist))
    (exec (.cmdReadFlashPage 0x20 0 0) (alwaysReady 4 (frameChunks ok))) =
    some (.ok, 0, 4) := by decide

/-- V-F4: 70 polls, 66 chunks out, 4 in. -/
theorem test_writePage_F4 :
    view (fun t => (t.status, polls t.hist, (sent t.hist).length, (received t.hist).length, t.txf))
    (exec (.writePage 0x20)
      { alwaysReady 70 (frameChunks ok ++ frameChunks ok) with dlen := 256 }) =
    some (.ok, 70, 66, 4, some ⟨0xA5, 0x5A, 0xA5, 0x04, 0x20, 0, 0, 0xC9⟩) := by decide +kernel

/-- V-F5. -/
theorem test_writePage_F5 : refusal (exec (.writePage 0x20) { base with dlen := 252 }) =
    some .pageDataNot256 := by decide

/-- V-F5 by the frame. -/
theorem test_cmdWriteFlashPage_F5 :
    refusal (exec (.cmdWriteFlashPage 0x20 0 0) { base with dlen := 252 }) =
    some .pageDataNot256 := by decide

/-- V-F11. -/
theorem test_writeByte_F11 : view (fun t => (t.status, t.txf))
    (exec (.writeByte 0xFFFF 0xFF) (alwaysReady 4 (frameChunks ok))) =
    some (.ok, some ⟨0xA5, 0x5A, 0xA5, 0x05, 0xFF, 0xFF, 0xFF, 0xA7⟩) := by decide

/-- P2: byte write with backpressure. -/
theorem test_writeByte_P2 : view (fun t => (t.status, t.pollcnt, t.xcnt, t.hist))
    (exec (.writeByte 0x2001 0x00)
      (scripted [true, false, false, false, true, true, true] (frameChunks ok))) =
    some (.ok, 2, 8, [.poll true, .tx ⟨0xA5, 0x5A, 0xA5, 0x05⟩, .poll false, .poll false, .poll false,
      .poll true, .tx ⟨0x20, 0x01, 0x00, 0xCB⟩, .poll true, .rx ⟨0xA5, 0x5A, 0xA5, 0x08⟩,
      .poll true, .rx ⟨0x00, 0x00, 0x00, 0xAD⟩]) := by decide

/-- V-A16 on the wire, by the frame. -/
theorem test_cmdWriteFlashByte_A16 : view (fun t => (t.status, sent t.hist))
    (exec (.cmdWriteFlashByte 0x20 0x00 0x02) (alwaysReady 4 (frameChunks ok))) =
    some (.ok, [⟨0xA5, 0x5A, 0xA5, 0x05⟩, ⟨0x20, 0x00, 0x02, 0xCC⟩]) := by decide

/-- V-F6: 1024 bytes are not two pages; no wire event, `TXF` not written. -/
theorem test_writeProgramArea_F6 : view (fun t => (t.status, t.err, t.hist, t.txf))
    (exec (.writeProgramArea 2) { base with dlen := 1024 }) =
    some (.error .programSizeMismatch, true, [], none) := by decide

/-- V-F9: no page, both acknowledgements. -/
theorem test_writeProgramArea_F9 : view (fun t => (t.status, polls t.hist, t.txf))
    (exec (.writeProgramArea 0) (alwaysReady 6 (frameChunks ok ++ frameChunks ok))) =
    some (.ok, 6, some ⟨0xA5, 0x5A, 0xA5, 0x03, 0, 0, 0, 0xA8⟩) := by decide

/-- V-F7 by the frame. -/
theorem test_cmdWriteProgramArea_F7 : view (fun t => (t.status, t.hist))
    (exec (.cmdWriteProgramArea 2 0 0) { base with dlen := 256 }) =
    some (.error .programSizeMismatch, []) := by decide

/-- P3's last operation: one page of the program area, 68 polls, 2 chunks out, 66 in. -/
theorem test_readProgramArea_P3 :
    view (fun t => (t.status, t.dlen, polls t.hist, (sent t.hist).length, (received t.hist).length))
    (exec (.readProgramArea 1)
      (alwaysReady 68 (frameChunks ok ++ List.replicate 64 ⟨0xFF, 0xFE, 0xFD, 0xFC⟩))) =
    some (.ok, 256, 68, 2, 66) := by decide +kernel

/-- The same command's frame, no page. -/
theorem test_cmdReadProgramArea_none : view (fun t => (t.status, t.dlen, t.dvalid))
    (exec (.cmdReadProgramArea 0 0 0) (alwaysReady 4 (frameChunks ok))) =
    some (.ok, 0, true) := by decide

/-- V-F14 and V-F15: the designated byte alone decides. -/
theorem test_runSelfTest_F14_F15 :
    view (fun t => t.status) (exec .runSelfTest
      (alwaysReady 4 (frameChunks ⟨0xA5, 0x5A, 0xA5, 0x08, 5, 0, 0, 0xB2⟩))) =
      some (.error .selfTestFailure) ∧
    view (fun t => t.status) (exec .runSelfTest
      (alwaysReady 4 (frameChunks ⟨0xA5, 0x5A, 0xA5, 0x08, 0, 5, 0, 0xB2⟩))) = some .ok ∧
    view (fun t => t.status) (exec .runSelfTest
      { alwaysReady 4 (frameChunks ⟨0xA5, 0x5A, 0xA5, 0x08, 0, 5, 0, 0xB2⟩) with
        cfg := { Config.ref with bistResultOff := .off5 } }) =
      some (.error .selfTestFailure) := by decide

/-- P4b with `MAXATT = 2`: the half acknowledgement is discarded, `RXF` stays unwritten. -/
theorem test_runSelfTest_P4b : view (fun t => (t.status, t.rxf, t.pollcnt, t.xcnt))
    (exec .runSelfTest { scripted [true, true, true, false, false, false, true]
      (frameChunks ok) with maxatt := 2 }) =
    some (.error .timeout, none, 2, 4) := by decide

/-- V-F16 by the frame: validation comes before the result byte. -/
theorem test_cmdRunBist_F16 : view (fun t => t.status)
    (exec (.cmdRunBist 0 0 0)
      (alwaysReady 4 (frameChunks ⟨0xA5, 0x5A, 0xA5, 0x08, 5, 0, 0, 0xB3⟩))) =
    some (.error .checksumMismatch) := by decide

/-- V-F17. -/
theorem test_setCodeProtect_F17 : view (fun t => (t.status, t.txf))
    (exec .setCodeProtect (alwaysReady 4 (frameChunks ok))) =
    some (.ok, some ⟨0xA5, 0x5A, 0xA5, 0x05, 0x20, 0x01, 0x00, 0xCB⟩) := by decide

/-- V-F18. -/
theorem test_verifyCodeProtect_F18 : view (fun t => (t.status, t.dvalid, t.txf))
    (exec .verifyCodeProtect (alwaysReady 68
      (frameChunks ok ++ ⟨0x02, 0x00, 0xFF, 0xFF⟩ :: List.replicate 63 ⟨0xFF, 0xFF, 0xFF, 0xFF⟩))) =
    some (.ok, true, some ⟨0xA5, 0x5A, 0xA5, 0x02, 0x20, 0x01, 0x00, 0xC8⟩) := by decide +kernel

/-- V-F19: the page stays valid. -/
theorem test_verifyCodeProtect_F19 : view (fun t => (t.status, t.err, t.dvalid))
    (exec .verifyCodeProtect (alwaysReady 68
      (frameChunks ok ++ ⟨0x02, 0xFF, 0xFF, 0xFF⟩ :: List.replicate 63 ⟨0xFF, 0xFF, 0xFF, 0xFF⟩))) =
    some (.error .codeProtectVerifyFailure, true, true) := by decide +kernel

/-! ### Acknowledgement frames -/

theorem test_ackOk : view (fun t => (t.status, t.rxf, t.result))
    (exec (.ackOk 0 0 0) (alwaysReady 2 [])) = some (.ok, some ok, .nothing) := by decide

theorem test_ackVersion : view (fun t => (t.status, t.result))
    (exec (.ackVersion 1 2 3) (alwaysReady 2 [])) = some (.ok, .version 1 2 3) := by decide

theorem test_ackBist : view (fun t => (t.status, t.rxf.isSome))
    (exec (.ackBist 5 0 0) (alwaysReady 2 [])) =
    some (.error .selfTestFailure, true) := by decide

/-! ### The HOST's edge -/

/-- V-F22 and R23: after an error, and while closed, nothing on the wire runs. -/
theorem test_refusals :
    refusal (exec (.readPage 0x20 1) { base with err := true }) = some .errorLatched ∧
    refusal (exec .isReady State.reset) = some .transportClosed ∧
    refusal (exec .isReady { base with busy := true }) = some .busy := by decide

/-- S9's merge, shortened. -/
theorem test_merge_S9 : mergeImage [0xFF, 1, 0, 0xFF] [(1, 2), (2, 0)] = [0xFF, 2, 0, 0xFF] := by
  decide

/-- R152: the exact offset of a corrupted byte. -/
theorem test_firstMismatch : firstMismatch [1, 2, 3] [1, 2, 4] = some 2 ∧
    firstMismatch [1, 2, 3] [1, 2, 3] = none := by decide

/-! ### Witnesses: for every statement with hypotheses, a state and operands that meet them together -/

/-- `base` stands where R110 asks it to. -/
theorem base_admits : base.Admits := ⟨rfl, rfl, rfl⟩

/-- A scripted state meets its own script, whatever is scripted within the bound 500. -/
theorem scripted_meets (ks : List Nat) (rest : List Bool) (cs more : List Chunk) (d : BitVec 17)
    (h : withinBound 500 ks) :
    let s : State := { scripted (answers ks ++ rest) (cs ++ more) with dlen := d }
    s.Admits ∧ s.Scripted ks rest cs more := ⟨⟨rfl, rfl, rfl⟩, h, rfl, rfl⟩

theorem within_replicate (n : Nat) : withinBound 500 (List.replicate n 0) := by
  intro k hk; rw [List.eq_of_mem_replicate hk]; decide

/-- Four gates and `n` more, the first failing as often as the bound allows. -/
def gates (n : Nat) : List Nat := [500, 0, 1, 0] ++ List.replicate n 0

theorem within_gates (n : Nat) : withinBound 500 (gates n) :=
  withinBound_append.2 ⟨by simp only [withinBound]; decide, within_replicate n⟩

/-- An acknowledgement whose checksum is wrong. -/
def badAck : Frame := ⟨0xA5, 0x5A, 0xA5, 0x08, 0x00, 0x00, 0x00, 0xAE⟩

theorem ok_validates : validate ok Config.ref.ackOk = none := by decide
theorem badAck_fails : validate badAck Config.ref.ackOk = some .checksumMismatch := by decide

theorem witness_BuildCommandResult : base.busy = false := rfl
theorem witness_ValidateResponseResult : base.busy = false := rfl
theorem witness_SingleByteChangesAreDetected : frameOk ok = true ∧ 0xFF ≠ ok.sync2 ∧
    0xFF ≠ ok.opcode ∧ 0xFF ≠ ok.arg0 ∧ 0xFF ≠ ok.arg1 ∧ 0xFF ≠ ok.arg2 ∧ 0xFF ≠ ok.checksum ∧
    0xFF ≠ ok.sync0 ∧ 0xFF ≠ ok.sync1 := by decide
theorem witness_IsReadyIsOneSample : base.Admits := base_admits

/-- The first clause at `k = 0` and at `k = n - 1`, the second at `n = 0` and at the largest `n`. -/
theorem witness_WaitReadyScriptedResult :
    (base.Admits ∧ (1 : Nat) < 2 ^ 16 ∧ 0 < 1 ∧
      (scripted [true] []).readyIn = gateAnswers 0 ++ []) ∧
    (base.Admits ∧ (65535 : Nat) < 2 ^ 16 ∧ 65534 < 65535 ∧
      (scripted (gateAnswers 65534) []).readyIn = gateAnswers 65534 ++ []) ∧
    ((0 : Nat) < 2 ^ 16 ∧ (scripted [] []).readyIn = List.replicate 0 false ++ []) ∧
    ((65535 : Nat) < 2 ^ 16 ∧
      (scripted (List.replicate 65535 false) []).readyIn = List.replicate 65535 false ++ []) :=
  ⟨⟨base_admits, by omega, by omega, rfl⟩,
    ⟨base_admits, by omega, by omega, (List.append_nil _).symm⟩, ⟨by omega, rfl⟩,
    ⟨by omega, (List.append_nil _).symm⟩⟩
theorem witness_WaitReadyPollAccounting : base.Admits ∧ (65535 : Nat) < 2 ^ 16 :=
  ⟨base_admits, by omega⟩

/-- The largest buffer, every gate passing at once, and the empty one. -/
theorem witness_SendResult :
    (let s : State := { scripted (answers (List.replicate 16320 0) ++ []) ([] ++ []) with dlen := 65280 }
     s.Admits ∧ s.dlen.toNat ≤ 65280 ∧ s.dlen.toNat % 4 = 0 ∧
      (List.replicate 16320 0).length = s.dlen.toNat / 4 ∧
      withinBound s.maxatt (List.replicate 16320 0) ∧
      s.readyIn = answers (List.replicate 16320 0) ++ []) ∧
    base.dlen.toNat ≤ 65280 ∧ ([] : List Nat).length = base.dlen.toNat / 4 :=
  ⟨⟨base_admits, by decide, by decide, by rw [List.length_replicate]; rfl, within_replicate _, rfl⟩,
    by decide, rfl⟩

/-- The last chunk of two times out. -/
theorem witness_SendTimeoutResult :
    let s : State := { scripted (answers [500] ++ (silence 500 ++ [])) [] with dlen := 8 }
    s.Admits ∧ s.dlen.toNat ≤ 65280 ∧ s.dlen.toNat % 4 = 0 ∧ [500].length < s.dlen.toNat / 4 ∧
      withinBound s.maxatt [500] ∧ s.readyIn = answers [500] ++ (silence s.maxatt ++ []) :=
  ⟨base_admits, by decide, by decide, by decide, by simp only [withinBound]; decide, rfl⟩

theorem witness_ReceiveResult :
    (let s := scripted (answers [0, 500] ++ []) (frameChunks ok ++ [])
     s.Admits ∧ 8 ≤ 65280 ∧ 8 % 4 = 0 ∧ [0, 500].length = 8 / 4 ∧
      (frameChunks ok).length = 8 / 4 ∧ s.Scripted [0, 500] [] (frameChunks ok) []) ∧
    (scripted [] []).Scripted [] [] [] [] :=
  ⟨⟨base_admits, by decide, rfl, rfl, rfl, by simp only [withinBound]; decide, rfl, rfl⟩,
    withinBound_nil _, rfl, rfl⟩

theorem witness_ReceiveTimeoutResult :
    let s := scripted (answers [500] ++ (silence 500 ++ [])) ([⟨1, 2, 3, 4⟩] ++ [])
    s.Admits ∧ 8 ≤ 65280 ∧ 8 % 4 = 0 ∧ [500].length < 8 / 4 ∧
      s.Scripted [500] (silence s.maxatt ++ []) [⟨1, 2, 3, 4⟩] [] :=
  ⟨base_admits, by decide, rfl, by decide, by simp only [withinBound]; decide, rfl, rfl⟩

/-- The four clauses, at their boundaries: 65278 and 65281 bytes. -/
theorem witness_TransferLengthRefusals : base.Admits ∧
    (({ base with dlen := 65278 } : State).dlen.toNat ≤ 65280 ∧
      ({ base with dlen := 65278 } : State).dlen.toNat % 4 ≠ 0) ∧
    65280 < ({ base with dlen := 65281 } : State).dlen.toNat ∧
    (65279 ≤ 65280 ∧ 65279 % 4 ≠ 0) ∧ 65280 < 65281 :=
  ⟨base_admits, by decide, by decide, by decide, by decide⟩

/-- A Send and a Receive that end `OK`. -/
theorem witness_TransferEventCounts :
    (∃ t, exec .send (scripted [] []) = .next t ∧ t.status = .ok) ∧
    ∃ t, exec (.receive 0) (scripted [] []) = .next t ∧ t.status = .ok :=
  ⟨⟨_, rfl, rfl⟩, _, rfl, rfl⟩

theorem witness_ReadSwVersionResult :
    (scripted (answers (gates 0) ++ []) (frameChunks ok ++ [])).Admits ∧
    (scripted (answers (gates 0) ++ []) (frameChunks ok ++ [])).Scripted [500, 0, 1, 0] []
      (frameChunks ok) [] ∧ validate ok base.cfg.ackVersion = none :=
  ⟨base_admits, ⟨within_gates 0, rfl, rfl⟩, by decide⟩

/-- No page, and 255 of them; a frame with any third argument. -/
theorem witness_ReadPageResult (n : Nat) (hn : n = 0 ∨ n = 255) :
    let ls := List.replicate (64 * n) 0
    let cs : List Chunk := List.replicate (64 * n) ⟨1, 2, 3, 4⟩
    let s := scripted (answers (gates (64 * n)) ++ []) (frameChunks ok ++ cs ++ [])
    s.Admits ∧ 255 < 256 ∧ n < 256 ∧ ls.length = 64 * n ∧ cs.length = 64 * n ∧
      s.Scripted ([500, 0, 1, 0] ++ ls) [] (frameChunks ok ++ cs) [] ∧
      validate ok s.cfg.ackOk = none ∧
      (secondOperand s.cfg.argMap.readFlashPage ⟨0x20, BitVec.ofNat 8 n, 0x77⟩).toNat = n := by
  refine ⟨base_admits, by decide, by omega, by simp, by simp, ⟨within_gates _, rfl, rfl⟩,
    ok_validates, ?_⟩
  rcases hn with rfl | rfl <;> decide

theorem witness_ReadProgramAreaResult (n : Nat) (hn : n = 0 ∨ n = 255) :
    let ls := List.replicate (64 * n) 0
    let cs : List Chunk := List.replicate (64 * n) ⟨1, 2, 3, 4⟩
    let s := scripted (answers (gates (64 * n)) ++ []) (frameChunks ok ++ cs ++ [])
    s.Admits ∧ n < 256 ∧ ls.length = 64 * n ∧ cs.length = 64 * n ∧
      s.Scripted ([500, 0, 1, 0] ++ ls) [] (frameChunks ok ++ cs) [] ∧
      validate ok s.cfg.ackOk = none ∧
      (firstOperand s.cfg.argMap.readProgramArea ⟨BitVec.ofNat 8 n, 0x66, 0x77⟩).toNat = n := by
  refine ⟨base_admits, by omega, by simp, by simp, ⟨within_gates _, rfl, rfl⟩, ok_validates, ?_⟩
  rcases hn with rfl | rfl <;> decide

/-- What a write of `64 * n` chunks needs: data, gates and both acknowledgements. -/
theorem write_meets (n : Nat) (d : BitVec 17) :
    let ls := List.replicate (64 * n) 0
    let s : State := { scripted (answers (gates (64 * n) ++ [3, 0]) ++ [])
      (frameChunks ok ++ frameChunks ok ++ []) with dlen := d }
    s.Admits ∧ ls.length = 64 * n ∧
      s.Scripted ([500, 0, 1, 0] ++ ls ++ [3, 0]) [] (frameChunks ok ++ frameChunks ok) [] ∧
      validate ok s.cfg.ackOk = none :=
  ⟨base_admits, by simp,
    ⟨withinBound_append.2 ⟨within_gates _,
      show withinBound 500 [3, 0] by simp only [withinBound]; decide⟩, rfl, rfl⟩,
    ok_validates⟩

theorem witness_WritePageResult :
    let s : State := { scripted (answers (gates (64 * 1) ++ [3, 0]) ++ [])
      (frameChunks ok ++ frameChunks ok ++ []) with dlen := 256 }
    255 < 256 ∧ s.dlen.toNat = 256 ∧ s.Admits ∧ (List.replicate (64 * 1) 0).length = 64 ∧
      s.Scripted ([500, 0, 1, 0] ++ List.replicate (64 * 1) 0 ++ [3, 0]) []
        (frameChunks ok ++ frameChunks ok) [] ∧ validate ok s.cfg.ackOk = none :=
  ⟨by decide, by decide, (write_meets 1 256).1, (write_meets 1 256).2.1, (write_meets 1 256).2.2⟩

theorem witness_WritePageRefusesOtherLengths :
    base.Admits ∧ 255 < 256 ∧ ({ base with dlen := 257 } : State).dlen.toNat ≠ 256 :=
  ⟨base_admits, by decide, by decide⟩

theorem witness_WriteByteResult :
    (scripted (answers (gates 0) ++ []) (frameChunks ok ++ [])).Admits ∧ 65535 < 65536 ∧ 255 < 256 ∧
    (scripted (answers (gates 0) ++ []) (frameChunks ok ++ [])).Scripted [500, 0, 1, 0] []
      (frameChunks ok) [] ∧ validate ok base.cfg.ackOk = none :=
  ⟨base_admits, by decide, by decide, ⟨within_gates 0, rfl, rfl⟩, ok_validates⟩

theorem witness_WriteProgramAreaResult (n : Nat) (hn : n = 0 ∨ n = 255) :
    let ls := List.replicate (64 * n) 0
    let s : State := { scripted (answers (gates (64 * n) ++ [3, 0]) ++ [])
      (frameChunks ok ++ frameChunks ok ++ []) with dlen := BitVec.ofNat 17 (n * 256) }
    n < 256 ∧ s.dlen.toNat = n * 256 ∧
      (firstOperand s.cfg.argMap.writeProgramArea ⟨BitVec.ofNat 8 n, 0x66, 0x77⟩).toNat = n ∧
      s.Admits ∧ ls.length = 64 * n ∧
      s.Scripted ([500, 0, 1, 0] ++ ls ++ [3, 0]) [] (frameChunks ok ++ frameChunks ok) [] ∧
      validate ok s.cfg.ackOk = none := by
  refine ⟨by omega, ?_, ?_, write_meets n _⟩ <;> rcases hn with rfl | rfl <;> decide

theorem witness_ProgramSizeMismatchBeforeAnyWireEvent : base.Admits ∧ 255 < 256 ∧
    ({ base with dlen := 65279 } : State).dlen.toNat ≠ 255 * 256 ∧
    (firstOperand base.cfg.argMap.writeProgramArea ⟨255, 1, 2⟩).toNat = 255 :=
  ⟨base_admits, by decide, by decide, by decide⟩

/-- A result byte of 0 for the first clause, of 5 for the second. -/
theorem witness_RunSelfTestResult :
    (scripted (answers (gates 0) ++ []) (frameChunks ok ++ [])).Admits ∧
    (scripted (answers (gates 0) ++ []) (frameChunks ok ++ [])).Scripted [500, 0, 1, 0] []
      (frameChunks ok) [] ∧ validate ok base.cfg.ackBist = none ∧ ok.arg0 = 0 ∧
    validate ⟨0xA5, 0x5A, 0xA5, 0x08, 5, 0, 0, 0xB2⟩ base.cfg.ackBist = none ∧ (5 : Byte) ≠ 0 :=
  ⟨base_admits, ⟨within_gates 0, rfl, rfl⟩, by decide, rfl, by decide, by decide⟩

theorem witness_SetCodeProtectResult :
    (scripted (answers (gates 0) ++ []) (frameChunks ok ++ [])).Admits ∧
    (scripted (answers (gates 0) ++ []) (frameChunks ok ++ [])).Scripted [500, 0, 1, 0] []
      (frameChunks ok) [] ∧ validate ok base.cfg.ackOk = none :=
  ⟨base_admits, ⟨within_gates 0, rfl, rfl⟩, ok_validates⟩

/-- A protect byte of 0 for the first clause, of 0xFF for the second. -/
theorem witness_VerifyCodeProtectResult (c : Chunk)
    (hc : c = ⟨2, 0, 0xFF, 0xFF⟩ ∨ c = ⟨2, 0xFF, 0xFF, 0xFF⟩) :
    let ls := List.replicate (64 * 1) 0
    let cs : List Chunk := List.replicate 63 ⟨1, 2, 3, 4⟩
    let s := scripted (answers (gates (64 * 1)) ++ []) (frameChunks ok ++ c :: cs ++ [])
    s.Admits ∧ ls.length = 64 ∧ cs.length = 63 ∧
      s.Scripted ([500, 0, 1, 0] ++ ls) [] (frameChunks ok ++ c :: cs) [] ∧
      validate ok s.cfg.ackOk = none ∧ (c.b1 = 0 ∨ c.b1 ≠ 0) :=
  ⟨base_admits, by simp, by simp, ⟨within_gates _, rfl, rfl⟩, ok_validates, by
    rcases hc with rfl | rfl <;> decide⟩

/-- Result bytes 0 and 5 for the last two clauses. -/
theorem witness_AcknowledgementFrameResults :
    (scripted (answers [500, 0] ++ []) []).Admits ∧ withinBound base.maxatt [500, 0] ∧
    (scripted (answers [500, 0] ++ []) []).readyIn = answers [500, 0] ++ [] ∧
    bistByte base.cfg.bistResultOff (buildFrame base.cfg.ackBist ⟨0, 1, 2⟩) = 0 ∧
    bistByte base.cfg.bistResultOff (buildFrame base.cfg.ackBist ⟨5, 1, 2⟩) ≠ 0 :=
  ⟨base_admits, by simp only [withinBound]; decide, rfl, by decide, by decide⟩

/-- A read, a write and a plain command with a bad acknowledgement. -/
theorem witness_BadFirstAcknowledgementStops :
    let s : State := { scripted (answers (gates 0) ++ []) (frameChunks badAck ++ []) with dlen := 256 }
    (Instr.exchange? s.cfg (.readPage 0x20 1)).isSome = true ∧ (Instr.readPage 0x20 1).wf = true ∧
      (Instr.readPage 0x20 1).DataFits s ∧
      (Instr.exchange? s.cfg (.writePage 0x20)).isSome = true ∧ (Instr.writePage 0x20).wf = true ∧
      (Instr.writePage 0x20).DataFits s ∧
      (Instr.exchange? s.cfg .readSwVersion).isSome = true ∧
      s.Admits ∧ s.Scripted [500, 0, 1, 0] [] (frameChunks badAck) [] ∧
      validate badAck (s.cfg.ackOf .readFlashPage) = some .checksumMismatch ∧
      validate badAck (s.cfg.ackOf .writeFlashPage) = some .checksumMismatch ∧
      validate badAck (s.cfg.ackOf .readSwVersion) = some .checksumMismatch :=
  ⟨rfl, rfl, trivial, rfl, rfl, rfl, rfl, base_admits, ⟨within_gates 0, rfl, rfl⟩, by decide,
    by decide, by decide⟩

/-- Each of the four chunks of a command can be the one that times out. -/
theorem witness_CommandTimeoutStops (ks : List Nat) (cs : List Chunk)
    (h : (ks, cs) = ([], []) ∨ (ks, cs) = ([500], []) ∨ (ks, cs) = ([0, 500], []) ∨
      (ks, cs) = ([0, 1, 500], [⟨0xA5, 0x5A, 0xA5, 0x08⟩])) :
    let s := scripted (answers ks ++ (silence 500 ++ [])) (cs ++ [])
    (Instr.exchange? s.cfg .runSelfTest).isSome = true ∧ Instr.runSelfTest.wf = true ∧
      Instr.runSelfTest.DataFits s ∧ s.Admits ∧ ks.length < 4 ∧ cs.length = ks.length - 2 ∧
      s.Scripted ks (silence s.maxatt ++ []) cs [] := by
  rcases h with h | h | h | h <;> obtain ⟨rfl, rfl⟩ := Prod.mk.inj h <;>
    exact ⟨rfl, rfl, trivial, base_admits, by decide, rfl, by simp only [withinBound]; decide, rfl, rfl⟩

/-- A read of one page whose last chunk times out, and a write of one page whose last does. -/
theorem witness_PayloadTimeoutStops :
    let ls := List.replicate 63 0
    let cs : List Chunk := List.replicate 63 ⟨1, 2, 3, 4⟩
    let s : State := { scripted (answers (gates 63) ++ (silence 500 ++ [])) (frameChunks ok ++ cs ++ [])
      with dlen := 256 }
    let u : State := { scripted (answers (gates 63) ++ (silence 500 ++ [])) (frameChunks ok ++ [])
      with dlen := 256 }
    (Instr.exchange? s.cfg (.readPage 0x20 1)).isSome = true ∧ (Instr.readPage 0x20 1).wf = true ∧
      (Instr.readPage 0x20 1).DataFits s ∧ s.Admits ∧
      validate ok (s.cfg.ackOf .readFlashPage) = none ∧
      4 * ls.length < (Instr.readPage 0x20 1).recvSize s.cfg ∧ cs.length = ls.length ∧
      s.Scripted ([500, 0, 1, 0] ++ ls) (silence s.maxatt ++ []) (frameChunks ok ++ cs) [] ∧
      (Instr.exchange? u.cfg (.writePage 0x20)).isSome = true ∧ (Instr.writePage 0x20).wf = true ∧
      (Instr.writePage 0x20).DataFits u ∧ u.Admits ∧
      validate ok (u.cfg.ackOf .writeFlashPage) = none ∧
      4 * ls.length < (Instr.writePage 0x20).sendSize u.cfg ∧
      u.Scripted ([500, 0, 1, 0] ++ ls) (silence u.maxatt ++ []) (frameChunks ok) [] :=
  ⟨rfl, rfl, trivial, base_admits, by decide, by decide, rfl, ⟨within_gates _, rfl, rfl⟩, rfl, rfl, rfl,
    base_admits, by decide, by decide, ⟨within_gates _, rfl, rfl⟩⟩

/-- A write of one page whose second acknowledgement is bad. -/
theorem witness_SecondAcknowledgementFailures_page :
    let ls := List.replicate (64 * 1) 0
    let s : State := { scripted (answers (gates (64 * 1) ++ [3, 0]) ++ [])
      (frameChunks ok ++ frameChunks badAck ++ []) with dlen := 256 }
    (Instr.exchange? s.cfg (.writePage 0x20)).isSome = true ∧ (Instr.writePage 0x20).wf = true ∧
      (Instr.writePage 0x20).writesPayload = true ∧ (Instr.writePage 0x20).DataFits s ∧ s.Admits ∧
      4 * ls.length = (Instr.writePage 0x20).sendSize s.cfg ∧
      validate ok (s.cfg.ackOf .writeFlashPage) = none ∧
      validate badAck s.cfg.ackOk = some .checksumMismatch ∧
      s.Scripted ([500, 0, 1, 0] ++ ls ++ [3, 0]) [] (frameChunks ok ++ frameChunks badAck) [] :=
  ⟨rfl, rfl, rfl, rfl, base_admits, by decide, ok_validates, badAck_fails,
    ⟨withinBound_append.2 ⟨within_gates _,
      show withinBound 500 [3, 0] by simp only [withinBound]; decide⟩, rfl, rfl⟩⟩
/-- A write of no page: its second acknowledgement bad, and timing out after one chunk. -/
theorem witness_SecondAcknowledgementFailures :
    let s := scripted (answers (gates 0 ++ [3, 0]) ++ []) (frameChunks ok ++ frameChunks badAck ++ [])
    let u := scripted (answers (gates 0 ++ [500]) ++ (silence 500 ++ []))
      (frameChunks ok ++ [⟨0xA5, 0x5A, 0xA5, 0x08⟩] ++ [])
    (Instr.exchange? s.cfg (.writeProgramArea 0)).isSome = true ∧
      (Instr.writeProgramArea 0).wf = true ∧ (Instr.writeProgramArea 0).writesPayload = true ∧
      (Instr.writeProgramArea 0).DataFits s ∧ s.Admits ∧
      4 * ([] : List Nat).length = (Instr.writeProgramArea 0).sendSize s.cfg ∧
      validate ok (s.cfg.ackOf .writeProgramArea) = none ∧
      validate badAck s.cfg.ackOk = some .checksumMismatch ∧
      s.Scripted ([500, 0, 1, 0] ++ [] ++ [3, 0]) [] (frameChunks ok ++ frameChunks badAck) [] ∧
      (Instr.writeProgramArea 0).DataFits u ∧ u.Admits ∧
      u.Scripted ([500, 0, 1, 0] ++ [] ++ [500]) (silence u.maxatt ++ [])
        (frameChunks ok ++ [⟨0xA5, 0x5A, 0xA5, 0x08⟩]) [] :=
  ⟨rfl, rfl, rfl, rfl, base_admits, rfl, ok_validates, badAck_fails,
    ⟨by simp only [withinBound]; decide, rfl, rfl⟩, rfl, base_admits,
    ⟨by simp only [withinBound]; decide, rfl, rfl⟩⟩

theorem witness_WireOperationEndsIdle :
    Instr.isReady.usesWire = true ∧ ∃ t, exec .isReady base = .next t := ⟨rfl, _, rfl⟩
/-- One instruction for each clause, each with a next state. -/
theorem witness_FrameOfEveryInstruction :
    (∃ t, exec .isReady base = .next t) ∧ Instr.isReady.writesTxf = false ∧
    Instr.isReady.writesRxf = false ∧ Instr.isReady.readsPayload = false ∧
    (∃ t, exec (.buildCommand 1 2 3 4) base = .next t) ∧
    (Instr.buildCommand 1 2 3 4).usesWire = false ∧ (∃ t, exec (.waitReady 0) base = .next t) :=
  ⟨⟨_, rfl⟩, rfl, rfl, rfl, ⟨_, rfl⟩, rfl, _, rfl⟩
/-- A read that ends `OK`, and a page whose protect byte is 0xFF. -/
theorem witness_ReadStoresReceivedBytes : (Instr.receive 0).readsPayload = true ∧
    (∃ t, exec (.receive 0) base = .next t ∧ t.status = .ok) ∧
    Instr.verifyCodeProtect.readsPayload = true ∧
    view (fun t => t.status) (exec .verifyCodeProtect (alwaysReady 68
      (frameChunks ok ++ List.replicate 64 ⟨0xFF, 0xFF, 0xFF, 0xFF⟩))) =
      some (.error .codeProtectVerifyFailure) := ⟨rfl, ⟨_, rfl, rfl⟩, rfl, by decide +kernel⟩
theorem witness_ExchangeTransmitsCommandThenPayload :
    (Instr.exchange? base.cfg (.writeProgramArea 0)).isSome = true ∧
    (∃ t, exec (.writeProgramArea 0) base = .next t) ∧
    ∀ x < (Instr.writeProgramArea 0).sendSize base.cfg, (base.dbuf.read? x).isSome = true :=
  ⟨rfl, ⟨_, rfl⟩, by decide⟩
/-- A write that sent one payload chunk has more than two. -/
theorem witness_PayloadOnlyAfterValidatedAck :
    (Instr.exchange? base.cfg (.writePage 0x20)).isSome = true ∧
    view (fun t => decide (2 < (sent t.hist).length)) (exec (.writePage 0x20)
      { alwaysReady 70 (frameChunks ok ++ frameChunks ok) with dlen := 256 }) = some true :=
  ⟨rfl, by decide +kernel⟩
theorem witness_RxfHoldsOffendingFrame :
    (Instr.exchange? base.cfg .readSwVersion).isSome = true ∧
    view (fun t => t.status) (exec .readSwVersion (alwaysReady 4 (frameChunks badAck))) =
      some (.error .checksumMismatch) := by decide
theorem witness_WhereEachErrorComesFrom :
    view (fun t => t.status) (exec (.writeProgramArea 1) base) = some (.error .programSizeMismatch) ∧
    view (fun t => t.status) (exec (.ackBist 5 0 0) (alwaysReady 2 [])) =
      some (.error .selfTestFailure) ∧
    view (fun t => t.status) (exec (.waitReady 0) base) = some (.error .timeout) := by decide
theorem witness_WireEventsAreBounded :
    (∃ t, exec (.waitReady 0) base = .next t) ∧ (∃ t, exec .isReady base = .next t) ∧
    (∀ n, Instr.isReady ≠ .waitReady n) ∧ base.Admits ∧ (Instr.receive 65280).wf = true ∧
    (Instr.receive 65280).LengthFits base ∧ Instr.send.LengthFits base ∧
    (Instr.writePage 255).LengthFits { base with dlen := 256 } :=
  ⟨⟨_, rfl⟩, ⟨_, rfl⟩, nofun, base_admits, by decide, ⟨by decide, by decide⟩,
    ⟨by decide, by decide⟩, rfl⟩

theorem witness_LatchedErrorRefusesWireOperations :
    ({ base with err := true } : State).busy = false ∧ ({ base with err := true } : State).err = true ∧
    Instr.send.usesWire = true ∧ (Instr.buildCommand 1 2 3 4).usesWire = false := ⟨rfl, rfl, rfl, rfl⟩
theorem witness_ClosedTransportRefusesWireOperations :
    State.reset.busy = false ∧ State.reset.err = false ∧ State.reset.isOpen = false ∧
    Instr.send.usesWire = true := ⟨rfl, rfl, rfl, rfl⟩
theorem witness_BusyRefusesEveryRequest : ({ base with busy := true } : State).busy = true := rfl
theorem witness_OutOfRangeOperandsAreRefused : base.Admits ∧ (Instr.waitReady 65536).wf = false ∧
    (Instr.receive 131072).wf = false ∧ (Instr.readPage 256 0).wf = false ∧
    (Instr.readPage 0 256).wf = false ∧ (Instr.writeByte 65536 0).wf = false ∧
    (Instr.writeByte 0 256).wf = false := ⟨base_admits, by decide⟩
theorem witness_ArgMapPlacesOperands : Config.ref.argMap = Config.argMapR64 := rfl
theorem witness_SetCodeProtectIsWriteByte : base.Admits := base_admits

/-- `REF` has distinct commands, `apart` ten distinct opcodes; operands at their largest. -/
theorem witness_DecodeEncodeOperationsAndCommands : Config.ref.commandsDistinct ∧
    (Instr.writeByte 65535 255).wf = true ∧ (Instr.writeByte 65535 255).opsel?.isSome = true ∧
    (Instr.receive 131071).wf = true ∧
    ((Instr.cmdRunBist 1 2 3).exchange? Config.ref).isSome = true := by decide
theorem witness_DecodeEncodeEveryInstruction :
    apart.allDistinct ∧ (Instr.ackBist 255 0 255).wf = true := by decide
theorem witness_DecodedBytesAreTheEncoding :
    decode Config.ref [0x05, 0x01, 0xFF, 0xFF] = .ok (.receive 131071) := by decide
/-- The least and the largest byte of the clause. -/
theorem witness_ReservedSelectorIsRefused :
    15 < (16 : Byte).toNat ∧ (16 : Byte) ≠ 0xA5 ∧ 15 < (255 : Byte).toNat ∧ (255 : Byte) ≠ 0xA5 := by
  decide

/-- A start; a program whose first operation ends `OK`, with and without one after it; one whose first
ends with an error; one whose first is refused; and one whose first line has a buffer, of the largest
length, of one more, and while `BUSY = 1`. -/
theorem witness_StepRunsDecodedInstruction :
    ({ base with hostQ := [.start [0x06]] } : State).hostQ = .start [0x06] :: [] ∧
    decode base.cfg [0x06] = .ok .readSwVersion ∧
    decode base.cfg [0x00, 1, 2, 3, 4] = .ok (.buildCommand 1 2 3 4) ∧
    view (fun t => t.status) (exec (.buildCommand 1 2 3 4) base) = some .ok ∧
    ([⟨[0x02], none⟩] : List ProgramLine) ≠ [] ∧
    decode base.cfg [0x03, 0, 0] = .ok (.waitReady 0) ∧
    view (fun t => t.status) (exec (.waitReady 0) base) = some (.error .timeout) ∧
    refusal (exec .readSwVersion { base with isOpen := false }) = some .transportClosed ∧
    base.busy = false ∧ (List.replicate 65280 (0 : Byte)).length ≤ 65280 ∧
    65280 < (List.replicate 65281 (0 : Byte)).length ∧ ({ base with busy := true } : State).busy = true := by
  refine ⟨rfl, by decide, by decide, by decide, by decide, by decide, by decide, by decide, rfl,
    List.length_replicate.le, ?_, rfl⟩
  rw [List.length_replicate]; omega

/-- R68: the first operation of a program that ends with an error ends it, a failed ValidateResponse
(V-B11) among them; the HOST goes on after it. -/
theorem test_program_ends_at_first_error :
    view (fun t => (t.hostQ, t.status)) (step { base with hostQ := [.program
        [⟨[0x01, 0xFF, 0xFF, 0xFF, 0xFF, 0xFF, 0xFF, 0xFF, 0xFF, 0xFF], none⟩, ⟨[0x02], none⟩],
        .setOpen false] }) =
      some ([.setOpen false], .error .checksumMismatch) := by decide
/-- R68: one that ends `OK` is followed by the next. -/
theorem test_program_goes_on :
    view (fun t => (t.hostQ, t.status)) (step { base with hostQ := [.program
        [⟨[0x00, 1, 2, 3, 4], none⟩, ⟨[0x02], none⟩], .setOpen false] }) =
      some ([.program [⟨[0x02], none⟩], .setOpen false], .ok) := by decide
/-- R68, R101: `Send(b1)`, `Send(b2)`: the first sends its own buffer, then the second is next. -/
theorem test_program_send_send :
    view (fun t => (t.hostQ, t.status, sent t.hist)) (step { alwaysReady 1 [] with hostQ := [.program
        [⟨[0x04], some [1, 2, 3, 4]⟩, ⟨[0x04], some [5, 6, 7, 8]⟩]] }) =
      some ([.program [⟨[0x04], some [5, 6, 7, 8]⟩]], .ok, [⟨1, 2, 3, 4⟩]) := by decide
/-- R68, R170: `Send(b1)`, `Send(b2)` with a MODULE that is never ready: the second does not follow. -/
theorem test_program_send_timeout :
    view (fun t => (t.hostQ, t.status)) (step { scripted [false, false] [] with
        maxatt := 1
        hostQ := [.program [⟨[0x04], some [1, 2, 3, 4]⟩, ⟨[0x04], some [5, 6, 7, 8]⟩]] }) =
      some ([], .error .timeout) := by decide
theorem witness_EngineResetValues :
    ({ base with hostQ := [.engineReset] } : State).hostQ = .engineReset :: [] := rfl
theorem witness_OnlyEngineResetClearsErr :
    let s : State := { base with err := true, hostQ := [.start [0x00, 1, 2, 3, 4]] }
    s.err = true ∧ s.hostQ.head? ≠ some .engineReset ∧ ∃ t, step s = .next t :=
  ⟨rfl, by decide, _, rfl⟩
theorem witness_StepKeepsConstantsAndHistory :
    let s : State := { base with hostQ := [.start [0x02]] }
    s.hostQ.head? ≠ some .engineReset ∧ ∃ t, step s = .next t := ⟨by decide, _, rfl⟩
theorem witness_StepKeepsTheInvariant :
    let s : State := { base with hostQ := [.start [0x02]] }
    s.Inv ∧ ∃ t, step s = .next t :=
  ⟨⟨⟨rfl, rfl⟩, rfl, by decide, by decide, nofun, rfl⟩, _, rfl⟩
/-- Teardown after an error. Connecting: a check that ends `OK` (WaitReady of a ready MODULE), one that times out (the least bound), one that
answers false, and one that is refused. -/
theorem witness_ConnectAndTeardownSequences :
    let s : State := { base with err := true, pmode := true, hostQ := teardownSequence ++ [] }
    let u : State := { State.reset with
      cfg := Config.ref, readyIn := [false], hostQ := connectSequence [2] ++ [] }
    let v : State := { u with pmode := true, resetLine := false, isOpen := true, hostQ := [] }
    s.busy = false ∧ s.hostQ = teardownSequence ++ [] ∧
    u.busy = false ∧ u.hostQ = connectSequence [2] ++ [] ∧ decode u.cfg [2] = .ok .isReady ∧
    decode u.cfg [3, 0, 0] = .ok (.waitReady 0) ∧ decode u.cfg [3, 0, 2] = .ok (.waitReady 2) ∧
    view (fun t => (t.status, t.result)) (exec .isReady v) = some (.ok, .ready false) ∧
    view (fun t => t.status) (exec (.waitReady 0) v) = some (.error .timeout) ∧
    view (fun t => (t.status, t.result)) (exec (.waitReady 2) { v with readyIn := [false, true] }) =
      some (.ok, .nothing) ∧
    refusal (exec .isReady { v with err := true }) = some .errorLatched := by decide

/-- R196: IsReady answers false, and the HOST reports `ModuleNotDetected` and tears down. -/
theorem test_connect_not_detected :
    view (fun t => (t.hostError, t.hostQ)) (step { scripted [false] [] with
        pmode := true, hostQ := [.confirmReady [2], .start [6]] }) =
      some (some .moduleNotDetected, teardownSequence) := by decide
/-- R196: IsReady answers true, and PMODE and ReadSwVersion are next. -/
theorem test_connect_goes_on :
    view (fun t => (t.hostError, t.hostQ)) (step { scripted [true] [] with
        pmode := true, hostQ := [.confirmReady [2], .setOpen false] }) =
      some (none, [.setPmode false, .start [6], .setOpen false]) := by decide
/-- Each clause, at the boundary of `MAXATT`'s range and of a buffer of 4 bytes. -/
theorem witness_HostPortRules : base.busy = false ∧ 65535 < 65536 ∧ 65536 ≤ 65536 ∧
    ({ base with busy := true } : State).busy = true ∧
    3 < ({ base with dlen := 4 } : State).dlen.toNat ∧
    ({ base with dlen := 4 } : State).dlen.toNat ≤ 4 ∧
    base.dvalid = false ∧ ({ base with dvalid := true } : State).dvalid = true ∧ base.txf = none ∧
    ({ base with txf := some ok } : State).txf = some ok ∧ base.rxf = none ∧
    ({ base with rxf := some ok } : State).rxf = some ok :=
  ⟨rfl, by decide, by decide, rfl, by decide, by decide, rfl, rfl, rfl, rfl, rfl, rfl⟩
/-- The last byte of the buffer, one past the data and one past the buffer; `DLEN` at its largest and
one more. -/
theorem witness_HostFillsTheBuffer : base.busy = false ∧ 65279 + [(7 : Byte)].length ≤ 65280 ∧
    0 < [(7 : Byte)].length ∧ (65278 < 65279 ∨ 65279 + [(7 : Byte)].length ≤ 65278) ∧
    65280 < 65280 + [(7 : Byte)].length ∧ 65280 ≤ 65280 ∧ 65280 < 65281 :=
  ⟨rfl, by decide, by decide, .inl (by decide), by decide, by decide, by decide⟩

end Sys2Proof.Tests
end

section
/-! PROOFS of the family 00_scope: the engine leaves the HOST's side of the machine alone, the rules of a
program's line, and that a step runs the instruction its request decodes to. -/

namespace Sys2Proof.Machine

/-! ### The HOST's side of the machine -/

/-- The fields no operation writes: the configuration constants (R18), the two registers the HOST alone
writes (R17, R23), and what the HOST holds on its own side of the port. -/
structure HostSide where
  cfg : Config
  isOpen : Bool
  maxatt : BitVec 16
  portValue : PortValue
  hostQ : List HostAct
  pmode : Bool
  resetLine : Bool
  hostError : Option HostError

/-- Those fields of a state. -/
def State.hostSide (s : State) : HostSide :=
  ⟨s.cfg, s.isOpen, s.maxatt, s.portValue, s.hostQ, s.pmode, s.resetLine, s.hostError⟩

variable (s : State)

@[simp] theorem raiseError_hostSide (e : EngineError) : (raiseError e s).hostSide = s.hostSide := rfl
@[simp] theorem lostIf_hostSide (i : Instr) : (lostIf i s).hostSide = s.hostSide := by
  unfold lostIf; split <;> rfl

variable {s} {t : State}

/-- However an exchange ends, the HOST's side is as before. -/
theorem Outcome.keeps_hostSide {i : Instr} {cmd : Command} {a : Args} (h : Outcome i s cmd a t) :
    t.hostSide = s.hostSide := by
  cases h with
  | commandTimeout | badAck => rw [raiseError_hostSide, lostIf_hostSide]; rfl
  | readDone _ _ _ _ _ _ _ _ _ _ _ _ _ ht => obtain ⟨_, rfl⟩ | ⟨rfl, -⟩ := ht <;> rfl
  | writeEnd _ _ _ _ _ _ _ _ _ _ _ _ _ _ _ _ ht =>
    obtain ⟨-, rfl⟩ | ⟨_, -, rfl⟩ := ht <;> rfl
  | _ => rfl

/-- Receiving an acknowledgement frame leaves the HOST's side as it was. -/
theorem ack_keeps_hostSide {i : Instr} (hq : i.latched s = s.req) {op : OpName} {o : Byte} {r : Args}
    {tail : Frame → State → Run OpResult} (ht : AckTail tail)
    (h : admitted s (.next (finish ((runAck op o r s).bind tail))) = .next t) :
    t.hostSide = s.hostSide := by
  obtain ⟨-, h⟩ := admitted_next h
  cases h
  obtain ⟨_, _, -, -, ⟨_, -, -, h⟩ | ⟨_, -, ⟨_, h⟩ | ⟨_, -, h⟩ | ⟨h, -⟩⟩⟩ :=
    ack_outcome hq op o r tail ht <;> rw [h] <;> rfl

/-- No instruction touches the HOST's side of the machine. -/
theorem exec_keeps_hostSide {i : Instr} (h : exec i s = .next t) : t.hostSide = s.hostSide := by
  cases hx : i.exchange? s.cfg with
  | some p => exact (exec_exchange_outcome hx h).2.keeps_hostSide
  | none =>
    cases i with
    | ackOk r0 r1 r2 => exact ack_keeps_hostSide (i := .ackOk r0 r1 r2) rfl .nothing h
    | ackVersion r0 r1 r2 => exact ack_keeps_hostSide (i := .ackVersion r0 r1 r2) rfl .version h
    | ackBist r0 r1 r2 => exact ack_keeps_hostSide (i := .ackBist r0 r1 r2) rfl .bist h
    | buildCommand =>
      obtain ⟨-, h⟩ := unlessBusy_next (by exact h)
      cases h; rfl
    | validateResponse =>
      obtain ⟨-, h⟩ := unlessBusy_next (by exact h)
      split at h <;> cases h <;> rfl
    | isReady =>
      obtain ⟨-, _, _, -, rfl⟩ := exec_isReady_next h
      rfl
    | waitReady =>
      obtain ⟨-, -, _, -, ⟨_, -, rfl⟩ | rfl⟩ := exec_waitReady_next h <;> rfl
    | send =>
      obtain ⟨-, -, -, _, _, -, -, ⟨-, rfl⟩ | ⟨-, rfl⟩⟩ := exec_send_next h <;> rfl
    | receive =>
      obtain ⟨-, -, -, _, _, _, -, -, -, ⟨-, rfl⟩ | ⟨-, rfl⟩⟩ := exec_receive_next h <;> rfl
    | _ => cases hx

/-- The HOST's queue is the HOST's: no instruction changes it. -/
theorem exec_keeps_hostQ {i : Instr} (h : exec i s = .next t) : t.hostQ = s.hostQ :=
  congrArg HostSide.hostQ (exec_keeps_hostSide h)

/-! ### One step, and one line of a program -/

variable {request : List Byte} {more : List ProgramLine} {rest : List HostAct} {data : List Byte}

/-- A step takes the HOST's next action off its queue and does it. -/
theorem step_eq_hostStep {a : HostAct} (h : s.hostQ = a :: rest) :
    step s = hostStep a { s with hostQ := rest } := by
  rw [step, runNext, h]

theorem runRequest_of_decode {i : Instr} (h : decode s.cfg request = .ok i) :
    runRequest request s = exec i s := by
  rw [runRequest, h]

/-- After an operation that ended `OK`, the lines that are left are what the HOST does next (R68). -/
theorem continueProgram_more (h : t.status = .ok) (hm : more ≠ []) :
    continueProgram more t = { t with hostQ := .program more :: t.hostQ } := by
  cases more with
  | nil => exact absurd rfl hm
  | cons => simp only [continueProgram, h]

/-- After its last line, and after its first error, a program leaves nothing of itself (R68, R170). -/
theorem continueProgram_ended (h : t.status ≠ .ok ∨ more = []) : continueProgram more t = t := by
  unfold continueProgram
  split
  · next hs => simp [hs] at h
  · rfl
  · rfl

/-- A line without a buffer runs its request as any other, and the program goes on from there. -/
theorem runProgram_bare (request : List Byte) (more : List ProgramLine) (s : State) :
    runProgram (⟨request, none⟩ :: more) s =
      andThen (runRequest request s) fun t => .next (continueProgram more t) := rfl

/-- A line with a buffer is the delivery of the buffer, then the line without it (R22, R62). -/
theorem runProgram_buffer (request data : List Byte) (more : List ProgramLine) (s : State) :
    runProgram (⟨request, some data⟩ :: more) s =
      andThen (deliverBuffer (some data) s) (runProgram (⟨request, none⟩ :: more)) := rfl

theorem deliverBuffer_fits (hb : s.busy = false) (hl : data.length ≤ 65280) :
    deliverBuffer (some data) s = .next (fillBuffer data s) := by
  rw [deliverBuffer, unlessBusy_of_idle hb]; exact if_pos hl

theorem deliverBuffer_tooLong (hb : s.busy = false) (hl : 65280 < data.length) :
    deliverBuffer (some data) s = .refused .operandOutOfRange := by
  rw [deliverBuffer, unlessBusy_of_idle hb]; exact if_neg (Nat.not_le.2 hl)

theorem deliverBuffer_busy (hb : s.busy = true) : deliverBuffer (some data) s = .refused .busy :=
  if_pos hb

/-- A step whose next action is a program runs the operation of its first line, if that has no buffer. -/
theorem step_program_bare {i : Instr} (hi : decode s.cfg request = .ok i)
    (hq : s.hostQ = .program (⟨request, none⟩ :: more) :: rest) :
    step s = andThen (exec i { s with hostQ := rest }) fun t => .next (continueProgram more t) := by
  rw [step_eq_hostStep hq, hostStep, runProgram_bare, runRequest_of_decode (by exact hi)]

/-- A step whose next action is a program delivers the buffer of its first line, then goes on as if the
line had none. -/
theorem step_program_buffer (hq : s.hostQ = .program (⟨request, some data⟩ :: more) :: rest) :
    step s = andThen (deliverBuffer (some data) { s with hostQ := rest })
      (runProgram (⟨request, none⟩ :: more)) := by
  rw [step_eq_hostStep hq, hostStep, runProgram_buffer]

/-- A first line that ended with the state `t`: its successors follow, or the program has ended. -/
theorem step_program_next {i : Instr} (hi : decode s.cfg request = .ok i)
    (hq : s.hostQ = .program (⟨request, none⟩ :: more) :: rest)
    (ht : exec i { s with hostQ := rest } = .next t) :
    (t.status = .ok → more ≠ [] → step s = .next { t with hostQ := .program more :: rest }) ∧
      (t.status ≠ .ok ∨ more = [] → step s = .next { t with hostQ := rest }) := by
  have hstep : step s = .next (continueProgram more t) := by rw [step_program_bare hi hq, ht]; rfl
  have hrest : t.hostQ = rest := exec_keeps_hostQ ht
  subst hrest
  exact ⟨fun hs hm => hstep.trans (by rw [continueProgram_more hs hm]),
    fun he => hstep.trans (by rw [continueProgram_ended he])⟩

/-- A first line with a buffer that fits is the line without it, run with the buffer in `DBUF`. -/
theorem step_program_fits (hq : s.hostQ = .program (⟨request, some data⟩ :: more) :: rest)
    (hb : s.busy = false) (hl : data.length ≤ 65280) :
    step s = step { s with
      dbuf := s.dbuf.writeBytes 0 data, dlen := BitVec.ofNat 17 data.length
      hostQ := .program (⟨request, none⟩ :: more) :: rest } := by
  rw [step_program_buffer hq, deliverBuffer_fits (by exact hb) hl]; rfl

end Sys2Proof.Machine

namespace Sys2Proof.Proofs

open Sys2Proof.Machine

/-- Settles O51: the action is taken off the queue and its request decoded; since no instruction touches
the HOST's queue, what follows a line of a program is its successors or what the HOST planned next. -/
theorem stepRunsDecodedInstruction : Obligations.StepRunsDecodedInstruction := by
  unfold Obligations.StepRunsDecodedInstruction
  intro s request more rest
  refine ⟨fun i hi => ⟨fun hq => ?start, fun hq => ⟨fun t ht => ?next, fun r hr => ?refused⟩⟩,
    fun data hq => ⟨fun hb hl => ?fits, fun hb hl => ?tooLong, fun hb => ?busy⟩, fun hq => ?empty⟩
  case start => rw [step_eq_hostStep hq, hostStep, runRequest_of_decode (by exact hi)]
  case next =>
    obtain ⟨hgoes, hends⟩ := step_program_next hi hq ht
    exact ⟨hgoes, fun _ hm => hends (.inr hm), fun hs => hends (.inl hs)⟩
  case refused => rw [step_program_bare hi hq, hr]; rfl
  case fits =>
    refine ⟨s.dbuf.writeBytes 0 data, step_program_fits hq hb hl, fun x hx => ?_, fun x hx => ?_⟩
    · simpa using Memory.read?_writeBytes_inside data s.dbuf 0 x hx
    · exact Memory.read?_writeBytes_outside data s.dbuf 0 x (.inr (by omega))
  case tooLong => rw [step_program_buffer hq, deliverBuffer_tooLong (by exact hb) hl]; rfl
  case busy => rw [step_program_buffer hq, deliverBuffer_busy (by exact hb)]; rfl
  case empty => rw [step_eq_hostStep hq]; rfl

end Sys2Proof.Proofs
end

section
/-! PROOFS of the family 10_state: what every instruction, HOST action and step leaves of the state. -/

namespace Sys2Proof.Machine

variable {i : Instr} {s t u : State}

/-! ### Admission: the two kinds of instruction -/

/-- A wire instruction does nothing before the flags have let it pass (R16, R23, R172). -/
theorem exec_eq_admitted (h : i.usesWire = true) : ∃ k, exec i s = admitted s k := by
  cases i with
  | buildCommand | validateResponse => cases h
  | _ => exact ⟨_, rfl⟩

/-- A pure instruction is held back by `BUSY` alone (R16, R80). -/
theorem exec_eq_unlessBusy (h : i.usesWire = false) : ∃ k, exec i s = unlessBusy s k := by
  cases i with
  | buildCommand | validateResponse => exact ⟨_, rfl⟩
  | _ => cases h

theorem admitted_of_busy (h : s.busy = true) (k : Answer) : admitted s k = .refused .busy := by
  simp [admitted, admission, h]

theorem admitted_of_closed (hb : s.busy = false) (he : s.err = false) (ho : s.isOpen = false)
    (k : Answer) : admitted s k = .refused .transportClosed := by
  simp [admitted, admission, hb, he, ho]

theorem unlessBusy_of_busy (h : s.busy = true) (k : Answer) : unlessBusy s k = .refused .busy :=
  if_pos h

/-! ### What an instruction does to the state -/

/-- What an instruction leaves in the payload buffer (R22, R27). -/
inductive BufferEnd (i : Instr) (s t : State) : Prop where
  /-- The instruction receives no payload: the buffer is as before. -/
  | kept (hr : i.readsPayload = false) (hd : t.dbuf = s.dbuf) (hl : t.dlen = s.dlen)
    (hv : t.dvalid = s.dvalid)
  /-- A read failed before its last byte: no byte is known (R170, D21). -/
  | lost (hr : i.readsPayload = true) (hd : t.dbuf = []) (hl : t.dlen = s.dlen)
    (he : ∃ e, t.status = .error e ∧ e ≠ .codeProtectVerifyFailure)
  /-- A read stored all its chunks, the last it received, from offset 0 on (R103). -/
  | stored (hr : i.readsPayload = true) (cs : List Chunk) (d : List Event)
    (hn : cs.length ≤ 16320) (hz : 4 * cs.length = i.recvSize s.cfg)
    (hh : t.hist = s.hist ++ d) (hc : cs <:+ received d)
    (hd : t.dbuf = s.dbuf.writeBytes 0 (cs.flatMap Chunk.bytes))
    (hl : t.dlen = BitVec.ofNat 17 (4 * cs.length)) (hv : t.dvalid = true)

/-- What any instruction that answers a next state does to the registers, whatever the MODULE
answers. -/
structure Effect (i : Instr) (s t : State) : Prop where
  /-- `REQ` (R13). -/
  req : t.req = i.latched s
  /-- No operation is left running (R14, R16). -/
  idle : s.Idle → t.Idle
  /-- `TXF` is written by those R27 lists, with well-formed frames (R11, R80). -/
  txf : t.txf = s.txf ∨ i.writesTxf = true ∧ ∃ f, t.txf = some f ∧ frameOk f = true
  /-- `RXF` is written by those R27 lists. -/
  rxf : i.writesRxf = true ∨ t.rxf = s.rxf
  /-- `XCNT` is kept or counts whole chunks (R20). -/
  xcnt : t.xcnt = s.xcnt ∨ t.xcnt.toNat % 4 = 0 ∧ t.xcnt.toNat ≤ 65280
  /-- `HIST` grows by gated transfers (R21, R104). -/
  hist : ∃ d, t.hist = s.hist ++ d ∧ gated d = true
  /-- The payload buffer. -/
  buffer : BufferEnd i s t

/-- An operation ends in `u`: it completes or raises an error. -/
def Ended (u t : State) : Prop := (∃ r, t = complete r u) ∨ ∃ e, t = raiseError e u

theorem Ended.completed {r : OpResult} : Ended u (complete r u) := .inl ⟨r, rfl⟩
theorem Ended.raised {e : EngineError} : Ended u (raiseError e u) := .inr ⟨e, rfl⟩

/-- The effect of a wire instruction, read off the state in which it ends. -/
theorem Effect.of_ended {w : Moved} {x y : Option Frame} {d : List Event} {m : Memory}
    {n : BitVec 17} {v : Bool}
    (ht : Ended { s.moved i w x d with rxf := y, dbuf := m, dlen := n, dvalid := v } t)
    (hx : x = s.txf ∨ i.writesTxf = true ∧ ∃ f, x = some f ∧ frameOk f = true)
    (hy : i.writesRxf = true ∨ y = s.rxf) (hw : w.xcnt = s.xcnt ∨ w.counted)
    (hg : gated d = true) (hb : BufferEnd i s t) : Effect i s t := by
  obtain ⟨_, rfl⟩ | ⟨_, rfl⟩ := ht <;>
    exact ⟨rfl, fun _ => ⟨rfl, rfl⟩, hx, hy, hw, ⟨d, rfl, hg⟩, hb⟩

/-! ### Exchanges -/

variable {cmd : Command} {a : Args}

/-- An exchange builds a command frame and receives an acknowledgement (R27). -/
theorem Instr.writes_of_exchange {c : Config} {p : Command × Args} (h : i.exchange? c = some p) :
    i.writesTxf = true ∧ i.writesRxf = true := by
  cases i with
  | ackOk | ackVersion | ackBist | buildCommand | validateResponse | isReady | waitReady | send
  | receive => cases h
  | _ => exact ⟨rfl, rfl⟩

/-- The effect of an exchange, read off the state in which it ends. -/
theorem Effect.of_exchange (hx : i.exchange? s.cfg = some (cmd, a)) {w : Moved} {y : Option Frame}
    {d : List Event} {m : Memory} {n : BitVec 17} {v : Bool}
    (ht : Ended { s.moved i w (some (buildFrame (s.cfg.opcode cmd) a)) d with
      rxf := y, dbuf := m, dlen := n, dvalid := v } t)
    (hw : w.counted) (hg : gated d = true) (hb : BufferEnd i s t) : Effect i s t :=
  have ⟨htx, hrx⟩ := Instr.writes_of_exchange hx
  .of_ended ht (.inr ⟨htx, _, rfl, frameOk_buildFrame _ _⟩) (.inl hrx) (.inr hw) hg hb

theorem lostIf_eq (i : Instr) (s : State) : lostIf i s = { s with
    dvalid := !i.readsPayload && s.dvalid, dbuf := if i.readsPayload then [] else s.dbuf } := by
  unfold lostIf
  cases i.readsPayload <;> rfl

/-- An error before the payload is complete costs a read its buffer, and only a read (R170). -/
theorem BufferEnd.of_lostIf {e : EngineError} (hd : u.dbuf = s.dbuf) (hl : u.dlen = s.dlen)
    (hv : u.dvalid = s.dvalid) (he : e ≠ .codeProtectVerifyFailure) :
    BufferEnd i s (raiseError e (lostIf i u)) := by
  rw [lostIf_eq]
  cases hr : i.readsPayload with
  | false => exact .kept hr hd hl hv
  | true => exact .lost hr rfl hl ⟨e, rfl, he⟩

/-- The judgement of a frame is no verdict on a protect byte. -/
theorem validate_ne_codeProtect {f : Frame} {o : Byte} {e : EngineError}
    (h : validate f o = some e) : e ≠ .codeProtectVerifyFailure := by
  obtain rfl | rfl := validate_some_cases h <;> decide

/-- The effect of an exchange, however it ends. -/
theorem Outcome.effect (hx : i.exchange? s.cfg = some (cmd, a)) (h : Outcome i s cmd a t) :
    Effect i s t := by
  cases h with
  | sizeMismatch op hr =>
    exact ⟨rfl, fun _ => ⟨rfl, rfl⟩, .inl rfl, .inr rfl, .inl rfl,
      ⟨[], (List.append_nil _).symm, rfl⟩, .kept hr rfl rfl rfl⟩
  | commandTimeout w ks cs hw =>
    exact .of_exchange hx (by rw [lostIf_eq]; exact .raised) hw (by simp [gated_append])
      (.of_lostIf rfl rfl rfl (by decide))
  | badAck w ks f e hw _ _ hv =>
    exact .of_exchange hx (by rw [lostIf_eq]; exact .raised) hw (gated_commandEvents ks _ f)
      (.of_lostIf rfl rfl rfl (validate_ne_codeProtect hv))
  | plainDone w ks f r hw hr =>
    exact .of_exchange hx .completed hw (gated_commandEvents ks _ f) (.kept hr rfl rfl rfl)
  | selfTestFailed w ks f hw hr =>
    exact .of_exchange hx .raised hw (gated_commandEvents ks _ f) (.kept hr rfl rfl rfl)
  | readTimeout w ks ls f cs hw hr =>
    exact .of_exchange hx .raised hw (by simp [gated_append])
      (.lost hr rfl rfl ⟨_, rfl, by decide⟩)
  | readDone w ks ls f cs t hw hr _ hn hl hc _ ht hz =>
    have hlen : ls.length = cs.length := hc.symm
    rw [hlen] at ht hz hl
    have hlast : cs <:+ received (commandEvents ks (buildFrame (s.cfg.opcode cmd) a) f ++
        rcvdEvents ls cs) := by
      rw [received_append, received_rcvdEvents, hlen, List.take_length]
      exact List.suffix_append _ _
    obtain ⟨_, rfl⟩ | ⟨rfl, -⟩ := ht
    · exact .of_exchange hx .completed hw (by simp [gated_append])
        (.stored hr cs _ hl hz.symm rfl hlast rfl rfl rfl)
    · exact .of_exchange hx .raised hw (by simp [gated_append])
        (.stored hr cs _ hl hz.symm rfl hlast rfl rfl rfl)
  | writeTimeout w v ks ls f hw hr =>
    exact .of_exchange hx .raised hw (by simp [gated_append]) (.kept hr rfl rfl rfl)
  | secondTimeout w v ks ls ms f cs hw hr =>
    exact .of_exchange hx .raised hw
      (gated_append (by simp [gated_append]) (gated_silentEvents _)) (.kept hr rfl rfl rfl)
  | writeEnd w v ks ls ms f g t hw hr _ _ _ _ _ _ ht =>
    obtain ⟨-, rfl⟩ | ⟨_, -, rfl⟩ := ht
    · exact .of_exchange hx .completed hw (by simp [gated_append]) (.kept hr rfl rfl rfl)
    · exact .of_exchange hx .raised hw (by simp [gated_append]) (.kept hr rfl rfl rfl)

/-! ### The other instructions -/

/-- The effect of receiving an acknowledgement frame. -/
theorem ack_effect (hq : i.latched s = s.req) (hr : i.readsPayload = false)
    (hrx : i.writesRxf = true) {op : OpName} {o : Byte} {r : Args}
    {tail : Frame → State → Run OpResult} (ht : AckTail tail)
    (h : admitted s (.next (finish ((runAck op o r s).bind tail))) = .next t) : Effect i s t := by
  obtain ⟨-, h⟩ := admitted_next h
  cases h
  obtain ⟨w, ks, hw, -, ⟨cs, -, -, h⟩ | ⟨f, -, h⟩⟩ := ack_outcome hq op o r tail ht
  · rw [h]
    exact .of_ended .raised (.inl rfl) (.inl hrx) (.inr hw) (by simp [gated_append])
      (.kept hr rfl rfl rfl)
  · obtain ⟨_, h⟩ | ⟨_, -, h⟩ | ⟨h, -⟩ := h <;> rw [h]
    · exact .of_ended .completed (.inl rfl) (.inl hrx) (.inr hw) (gated_rcvdEvents ks _)
        (.kept hr rfl rfl rfl)
    all_goals
      exact .of_ended .raised (.inl rfl) (.inl hrx) (.inr hw) (gated_rcvdEvents ks _)
        (.kept hr rfl rfl rfl)

/-- A payload Receive that stored all its chunks, or lost them (R103). -/
theorem receive_effect {size : Nat} (h : exec (.receive size) s = .next t) :
    Effect (.receive size) s t := by
  obtain ⟨-, hmax, -, w, ks, cs, hw, -, hc, ⟨hn, rfl⟩ | ⟨-, rfl⟩⟩ := exec_receive_next h
  · refine .of_ended .completed (.inl rfl) (.inr rfl) (.inr hw) (gated_rcvdEvents ks cs)
      (.stored rfl cs _ (by omega) (hc ▸ hn) rfl ?_ rfl (hc ▸ rfl) rfl)
    rw [received_rcvdEvents, ← hc, List.take_length]
  · exact .of_ended .raised (.inl rfl) (.inr rfl) (.inr hw) (by simp [gated_append])
      (.lost rfl rfl rfl ⟨_, rfl, by decide⟩)

/-- The effect of every instruction, whatever the MODULE answers. -/
theorem exec_effect (h : exec i s = .next t) : Effect i s t := by
  cases hx : i.exchange? s.cfg with
  | some p => exact (exec_exchange_outcome hx h).2.effect hx
  | none =>
    cases i with
    | ackOk => exact ack_effect rfl rfl rfl .nothing h
    | ackVersion => exact ack_effect rfl rfl rfl .version h
    | ackBist => exact ack_effect rfl rfl rfl .bist h
    | buildCommand o a0 a1 a2 =>
      obtain ⟨-, h⟩ := unlessBusy_next (by exact h)
      cases h
      exact ⟨rfl, id, .inr ⟨rfl, _, rfl, frameOk_buildFrame o ⟨a0, a1, a2⟩⟩, .inr rfl, .inl rfl,
        ⟨[], by simp, rfl⟩, .kept rfl rfl rfl rfl⟩
    | validateResponse =>
      obtain ⟨-, h⟩ := unlessBusy_next (by exact h)
      cases h
      exact ⟨rfl, id, .inl rfl, .inr rfl, .inl rfl, ⟨[], by simp, rfl⟩, .kept rfl rfl rfl rfl⟩
    | isReady =>
      obtain ⟨-, w, b, ⟨hw, -⟩, rfl⟩ := exec_isReady_next h
      exact .of_ended .completed (.inl rfl) (.inr rfl) (.inl hw) rfl (.kept rfl rfl rfl rfl)
    | waitReady =>
      obtain ⟨-, -, w, hw, ⟨k, -, rfl⟩ | rfl⟩ := exec_waitReady_next h
      · exact .of_ended .completed (.inl rfl) (.inr rfl) (.inl hw) (gated_gateEvents k)
          (.kept rfl rfl rfl rfl)
      · exact .of_ended .raised (.inl rfl) (.inr rfl) (.inl hw) (gated_replicate_poll _ _)
          (.kept rfl rfl rfl rfl)
    | send =>
      obtain ⟨-, -, -, w, ks, hw, -, ⟨-, rfl⟩ | ⟨-, rfl⟩⟩ := exec_send_next h
      · exact .of_ended .completed (.inl rfl) (.inr rfl) (.inr hw) (gated_sentEvents ks _)
          (.kept rfl rfl rfl rfl)
      · exact .of_ended .raised (.inl rfl) (.inr rfl) (.inr hw) (by simp [gated_append])
          (.kept rfl rfl rfl rfl)
    | receive => exact receive_effect h
    | _ => cases hx

/-! ### The invariant -/

/-- The payload buffer stays in canonical form, inside its capacity. -/
theorem BufferEnd.keeps_wf (h : BufferEnd i s t) (hs : s.dbuf.wf = true) : t.dbuf.wf = true := by
  cases h with
  | kept _ hd => rwa [hd]
  | lost _ hd => rw [hd]; rfl
  | stored _ cs _ hn _ _ _ hd =>
    rw [hd]
    refine Memory.wf_writeBytes _ _ _ hs ?_
    rw [flatMap_bytes_length, Config.dbufCapacity]
    omega

/-- `DLEN` stays within the capacity. -/
theorem BufferEnd.keeps_dlen (h : BufferEnd i s t) (hs : s.dlen.toNat ≤ 65280) :
    t.dlen.toNat ≤ 65280 := by
  cases h with
  | kept _ _ hl | lost _ _ hl => rwa [hl]
  | stored _ _ _ hn _ _ _ _ hl => rw [hl, BitVec.toNat_ofNat]; omega

/-- Every instruction keeps the invariant. -/
theorem Effect.keeps_inv (h : Effect i s t) (hs : s.Inv) : t.Inv where
  idle := h.idle hs.idle
  dbuf := h.buffer.keeps_wf hs.dbuf
  dlen := h.buffer.keeps_dlen hs.dlen
  xcnt := by
    obtain hx | hx := h.xcnt
    · rw [hx]; exact hs.xcnt
    · exact hx
  txf := by
    obtain hx | ⟨-, f, hf, hok⟩ := h.txf
    · rw [hx]; exact hs.txf
    · intro g hg
      rw [hf] at hg
      cases hg
      exact hok
  hist := by
    obtain ⟨d, hd, hg⟩ := h.hist
    rw [hd]
    exact gated_append hs.hist hg

/-- The HOST's data within the capacity keeps the invariant (R22). -/
theorem State.Inv.writeBytes (hs : s.Inv) {off : Nat} {data : List Byte}
    (h : off + data.length ≤ Config.dbufCapacity) :
    State.Inv { s with dbuf := s.dbuf.writeBytes off data } :=
  { hs with dbuf := Memory.wf_writeBytes data s.dbuf off hs.dbuf h }

/-- A length within the capacity keeps the invariant (R22). -/
theorem State.Inv.setDlen (hs : s.Inv) {n : Nat} (h : n ≤ Config.dbufCapacity) :
    State.Inv { s with dlen := BitVec.ofNat 17 n } :=
  { hs with dlen := by rw [BitVec.toNat_ofNat]; exact (Nat.mod_le _ _).trans h }

/-- After reset nothing is held and nothing has happened. -/
theorem reset_inv : State.reset.Inv where
  idle := ⟨rfl, rfl⟩
  dbuf := State.reset_dbuf_wf
  dlen := Nat.zero_le _
  xcnt := ⟨rfl, Nat.zero_le _⟩
  txf := nofun
  hist := rfl

/-- Engine reset meets the invariant whatever the state was (R190). -/
theorem engineReset_inv (s : State) : (engineReset s).Inv := { reset_inv with }

/-- Every HOST action keeps the invariant. -/
theorem hostStep_keeps_inv {a : HostAct} (h : hostStep a s = .next t) (hs : s.Inv) : t.Inv := by
  obtain ⟨_, i, s1, u, -, -, hs1, hu, ht⟩ | ⟨-, rfl⟩ | ⟨off, data, -, hl, rfl⟩ | ⟨n, -, hl, rfl⟩ |
    ⟨-, ht⟩ := hostStep_next h
  · have h1 : s1.Inv := by
      obtain rfl | ⟨data, hl, rfl⟩ := hs1
      · exact hs
      · exact (hs.writeBytes (by omega)).setDlen hl
    rw [ht]
    exact { (exec_effect hu).keeps_inv h1 with }
  · exact engineReset_inv s
  · exact hs.writeBytes hl
  · exact hs.setDlen hl
  · rw [ht]
    exact { hs with }

/-! ### Constants and history -/

/-- Every HOST action but engine reset keeps the configuration and only appends to `HIST`. -/
theorem hostStep_keeps_cfg_hist {a : HostAct} (h : hostStep a s = .next t) :
    t.cfg = s.cfg ∧ (a ≠ .engineReset → s.hist <+: t.hist) := by
  obtain ⟨_, i, s1, u, -, -, hs1, hu, ht⟩ | ⟨rfl, rfl⟩ | ⟨off, data, -, -, rfl⟩ | ⟨n, -, -, rfl⟩ |
    ⟨-, ht⟩ := hostStep_next h
  · obtain ⟨d, hd, -⟩ := (exec_effect hu).hist
    have hcfg : u.cfg = s1.cfg := congrArg HostSide.cfg (exec_keeps_hostSide hu)
    have h1 : s1.cfg = s.cfg ∧ s1.hist = s.hist := by
      obtain rfl | ⟨_, -, rfl⟩ := hs1 <;> exact ⟨rfl, rfl⟩
    rw [ht, ← h1.1, ← h1.2]
    exact ⟨hcfg, fun _ => ⟨d, hd.symm⟩⟩
  · exact ⟨rfl, fun hne => absurd rfl hne⟩
  · exact ⟨rfl, fun _ => List.prefix_rfl⟩
  · exact ⟨rfl, fun _ => List.prefix_rfl⟩
  · rw [ht]
    exact ⟨rfl, fun _ => List.prefix_rfl⟩

/-! ### Frames -/

/-- A pure operation writes `TXF`, `REQ`, `STATUS` and the result, nothing else (R27, R80). -/
theorem exec_pure_frame (hw : i.usesWire = false) (h : exec i s = .next t) :
    t = { s with txf := t.txf, req := t.req, status := t.status, result := t.result } := by
  cases i with
  | buildCommand | validateResponse =>
    obtain ⟨-, h⟩ := unlessBusy_next (by exact h)
    cases h
    rfl
  | _ => cases hw

/-- WaitReady, like IsReady, moves no byte (R92). -/
theorem exec_waitReady_xcnt {n : Nat} (h : exec (.waitReady n) s = .next t) : t.xcnt = s.xcnt := by
  obtain ⟨-, -, _, hx, ⟨_, -, rfl⟩ | rfl⟩ := exec_waitReady_next h <;> exact hx

/-- IsReady counts no failed poll and moves no byte (R91). -/
theorem exec_isReady_counters (h : exec .isReady s = .next t) :
    t.pollcnt = s.pollcnt ∧ t.xcnt = s.xcnt := by
  obtain ⟨-, _, _, ⟨hx, hp⟩, rfl⟩ := exec_isReady_next h
  exact ⟨hp, hx⟩

/-- An instruction that receives no payload leaves the payload buffer alone. -/
theorem BufferEnd.eq_of_no_payload (h : BufferEnd i s t) (hr : i.readsPayload = false) :
    t.dbuf = s.dbuf ∧ t.dlen = s.dlen ∧ t.dvalid = s.dvalid := by
  cases h with
  | kept _ hd hl hv => exact ⟨hd, hl, hv⟩
  | lost hr' | stored hr' => simp [hr] at hr'

/-! ### Acknowledgements that fail validation -/

/-- A frame error leaves the frame last received in `RXF`, and it is the one judged (R12, R163,
R164). -/
theorem Outcome.frameError (h : Outcome i s cmd a t) {e : EngineError} (hs : t.status = .error e)
    (he : e = .checksumMismatch ∨ e = .unexpectedResponse) :
    ∃ f, t.rxf = some f ∧ validate f (s.cfg.ackOf cmd) = some e ∧
      ∃ d, t.hist = s.hist ++ d ∧ frameChunks f <:+ received d := by
  cases h with
  | badAck w ks f e' _ _ hn hv =>
    cases hs
    refine ⟨f, by rw [lostIf_eq]; rfl, hv, _, by rw [lostIf_eq]; rfl, ?_⟩
    rw [received_commandEvents ks _ f hn]
  | writeEnd w v ks ls ms f g _ _ _ _ _ _ _ hm _ ht =>
    obtain ⟨-, rfl⟩ | ⟨e', hv, rfl⟩ := ht
    · cases hs
    · cases hs
      refine ⟨g, rfl, hv, _, rfl, ?_⟩
      rw [received_append, received_rcvdEvents, hm]
      exact List.suffix_append _ _
  | readDone _ _ _ _ _ _ _ _ _ _ _ _ _ ht =>
    obtain ⟨_, rfl⟩ | ⟨rfl, -⟩ := ht
    · cases hs
    · cases hs
      simp at he
  | plainDone => cases hs
  | _ => cases hs; simp at he

/-! ### The HOST's ports -/

variable {v off n : Nat} {data : List Byte}

theorem hostStep_writeMaxatt_fits (hb : s.busy = false) (hv : v < 65536) :
    hostStep (.writeMaxatt v) s = .next { s with maxatt := BitVec.ofNat 16 v } := by
  rw [hostStep, writeMaxatt, unlessBusy_of_idle hb, narrow_of_lt hv]

theorem hostStep_writeMaxatt_tooWide (hb : s.busy = false) (hv : 65536 ≤ v) :
    hostStep (.writeMaxatt v) s = .refused .operandOutOfRange := by
  rw [hostStep, writeMaxatt, unlessBusy_of_idle hb, narrow_of_not_lt (Nat.not_lt.2 hv)]

theorem hostStep_writeDbuf_fits (hb : s.busy = false) (h : off + data.length ≤ 65280) :
    hostStep (.writeDbuf off data) s = .next { s with dbuf := s.dbuf.writeBytes off data } := by
  rw [hostStep, writeDbuf, unlessBusy_of_idle hb]
  exact if_pos h

theorem hostStep_writeDbuf_tooLong (hb : s.busy = false) (h : 65280 < off + data.length) :
    hostStep (.writeDbuf off data) s = .refused .operandOutOfRange := by
  rw [hostStep, writeDbuf, unlessBusy_of_idle hb]
  exact if_neg (Nat.not_le.2 h)

theorem hostStep_writeDlen_fits (hb : s.busy = false) (h : n ≤ 65280) :
    hostStep (.writeDlen n) s = .next { s with dlen := BitVec.ofNat 17 n } := by
  rw [hostStep, writeDlen, unlessBusy_of_idle hb]
  exact if_pos h

theorem hostStep_writeDlen_tooLong (hb : s.busy = false) (h : 65280 < n) :
    hostStep (.writeDlen n) s = .refused .operandOutOfRange := by
  rw [hostStep, writeDlen, unlessBusy_of_idle hb]
  exact if_neg (Nat.not_le.2 h)

/-- `DBUF` is not read while `DVALID = 0`, neither whole nor by a byte (R22). -/
theorem readPort_dbuf_invalid (h : s.dvalid = false) :
    readPort .dbuf s = .refused .bufferInvalid ∧
      readPort (.dbufByte off) s = .refused .bufferInvalid :=
  ⟨if_neg (by simp [h]), if_pos h⟩

/-- While `DVALID = 1` it reads whole, and by a byte below `DLEN` (R22, R40). -/
theorem readPort_dbuf_valid (h : s.dvalid = true) :
    readPort .dbuf s = .next { s with portValue := .bytes (dbufBytes s s.dlen.toNat) } ∧
      (off < s.dlen.toNat →
        readPort (.dbufByte off) s = .next { s with portValue := .bytes [readDbuf s off] }) ∧
      (s.dlen.toNat ≤ off → readPort (.dbufByte off) s = .fault (.noSuchDbufByte off)) := by
  have hne : ¬ s.dvalid = false := by simp [h]
  exact ⟨if_pos h, fun ho => (if_neg hne).trans (if_pos ho),
    fun ho => (if_neg hne).trans (if_neg (Nat.not_lt.2 ho))⟩

/-- A frame register is read once it is written, and not before (R26). -/
theorem readFrame_some {r : Option Frame} {f : Frame} (h : r = some f) :
    readFrame r s = .next { s with portValue := .frame f } := by subst h; rfl
theorem readFrame_none {r : Option Frame} (h : r = none) :
    readFrame r s = .refused .unwrittenRegister := by subst h; rfl

end Sys2Proof.Machine

namespace Sys2Proof.Proofs

open Sys2Proof.Machine

/-- Settles O55: each instruction keeps the invariant by its effect on the registers; the HOST's own
writes of `DBUF` and `DLEN` stay within the capacity, and engine reset meets it from anywhere. -/
theorem stepKeepsTheInvariant : Obligations.StepKeepsTheInvariant := by
  unfold Obligations.StepKeepsTheInvariant
  intro s t hs h
  obtain ⟨-, rfl⟩ | ⟨a, rest, -, h⟩ := step_next h
  · exact hs
  · exact hostStep_keeps_inv h { hs with }

/-- Settles O32: the HOST's side is kept by `exec_keeps_hostSide`, the other registers by the effect
of the instruction. -/
theorem frameOfEveryInstruction : Obligations.FrameOfEveryInstruction := by
  unfold Obligations.FrameOfEveryInstruction
  intro i s t h
  have he := exec_effect h
  refine ⟨HostSide.mk.inj (exec_keeps_hostSide h), he.req, fun hw => ?txf, fun hw => ?rxf,
    fun hr => ?buffer, ?isReady, ?xcnt, fun hw => exec_pure_frame hw h⟩
  case txf => exact he.txf.resolve_right fun hx => by simp [hw] at hx
  case rxf => exact he.rxf.resolve_left fun hx => by simp [hw] at hx
  case buffer =>
    obtain ⟨hd, hl, hv⟩ := he.buffer.eq_of_no_payload hr
    exact ⟨hl, hv, fun x => by rw [hd]⟩
  case isReady => rintro rfl; exact (exec_isReady_counters h).1
  case xcnt =>
    rintro (rfl | ⟨n, rfl⟩)
    · exact (exec_isReady_counters h).2
    · exact exec_waitReady_xcnt h

/-- Settles O33: of the three ends of the payload buffer, only a read that stored all its chunks has
such a `STATUS`, and they are written from offset 0 on. -/
theorem readStoresReceivedBytes : Obligations.ReadStoresReceivedBytes := by
  unfold Obligations.ReadStoresReceivedBytes
  intro i s t hr h hst
  cases (exec_effect h).buffer with
  | kept hr' => simp [hr] at hr'
  | lost _ _ _ he =>
    obtain ⟨e, he, hne⟩ := he
    simp [he, hne] at hst
  | stored _ cs d hn hz hh hc hd hl hv =>
    refine ⟨cs, ⟨d, hh, hc⟩, hz, hv, ?dlen, fun x hx => ?inside, fun x hx => ?outside⟩
    case dlen => rw [hl, BitVec.toNat_ofNat]; omega
    case inside => simpa [hd] using Memory.read?_writeBytes_inside _ s.dbuf 0 x hx
    case outside =>
      rw [hd]
      refine Memory.read?_writeBytes_outside _ s.dbuf 0 x (.inr ?_)
      rw [flatMap_bytes_length]; omega

/-- Settles O36: an exchange fails with a frame error only at one of its acknowledgements, which `RXF`
holds and which ends what was received. -/
theorem rxfHoldsOffendingFrame : Obligations.RxfHoldsOffendingFrame := by
  unfold Obligations.RxfHoldsOffendingFrame
  intro i s t cmd a e hx h hs he
  exact (exec_exchange_outcome hx h).2.frameError hs he

/-- Settles O54: no HOST action writes the constants, and all but engine reset append to `HIST`. -/
theorem stepKeepsConstantsAndHistory : Obligations.StepKeepsConstantsAndHistory := by
  unfold Obligations.StepKeepsConstantsAndHistory
  intro s t h
  obtain ⟨-, rfl⟩ | ⟨a, rest, hq, h⟩ := step_next h
  · exact ⟨rfl, fun _ => List.prefix_rfl⟩
  · obtain ⟨hc, hh⟩ := hostStep_keeps_cfg_hist h
    exact ⟨hc, fun hne => hh fun ha => hne (by rw [hq, ha]; rfl)⟩

/-- Settles O59: the HOST's write is `Memory.writeBytes` at its offset, whose bytes read back and
which leaves every other byte. -/
theorem hostFillsTheBuffer : Obligations.HostFillsTheBuffer := by
  unfold Obligations.HostFillsTheBuffer
  intro s off n data hb
  refine ⟨fun h => ⟨s.dbuf.writeBytes off data, hostStep_writeDbuf_fits hb h, fun x hx => ?inside,
    fun x hx => ?outside⟩, hostStep_writeDbuf_tooLong hb, hostStep_writeDlen_fits hb,
    hostStep_writeDlen_tooLong hb⟩
  case inside => exact Memory.read?_writeBytes_inside data s.dbuf off x hx
  case outside => exact Memory.read?_writeBytes_outside data s.dbuf off x hx

/-- Settles O40: every wire instruction passes the admission test first, and a closed transport fails
it. -/
theorem closedTransportRefusesWireOperations : Obligations.ClosedTransportRefusesWireOperations := by
  unfold Obligations.ClosedTransportRefusesWireOperations
  intro i s hb he ho hw
  obtain ⟨k, hk⟩ := exec_eq_admitted (s := s) hw
  rw [hk, admitted_of_closed hb he ho]

/-- Settles O41: both kinds of instruction test `BUSY` before anything else. -/
theorem busyRefusesEveryRequest : Obligations.BusyRefusesEveryRequest := by
  unfold Obligations.BusyRefusesEveryRequest
  intro i s hb
  cases hw : i.usesWire with
  | true =>
    obtain ⟨k, hk⟩ := exec_eq_admitted (s := s) hw
    rw [hk, admitted_of_busy hb]
  | false =>
    obtain ⟨k, hk⟩ := exec_eq_unlessBusy (s := s) hw
    rw [hk, unlessBusy_of_busy hb]

/-- Settles O52: the step takes the action off the queue, and R25's values are `engineReset`'s. -/
theorem engineResetValues : Obligations.EngineResetValues := by
  unfold Obligations.EngineResetValues
  intro s rest hq
  rw [step_eq_hostStep hq]
  rfl

/-- Settles O56: `Config.device` carries the proof that it meets R7. -/
theorem resetMeetsTheInvariant : Obligations.ResetMeetsTheInvariant :=
  ⟨reset_inv, Config.device.isLawful⟩

/-- Settles O58: each port by the rule of its access. -/
theorem hostPortRules : Obligations.HostPortRules := by
  unfold Obligations.HostPortRules
  refine ⟨⟨rfl, rfl, rfl, rfl, rfl, rfl, rfl⟩, fun s v off data b f => ⟨fun hb => ?idle,
    fun hb => ?busy, rfl, rfl, rfl, rfl, rfl, rfl, rfl, rfl, readPort_dbuf_invalid, readPort_dbuf_valid,
    readFrame_none, readFrame_some, readFrame_none, readFrame_some⟩⟩
  case idle =>
    exact ⟨hostStep_writeMaxatt_fits hb, hostStep_writeMaxatt_tooWide hb,
      unlessBusy_of_idle hb _, unlessBusy_of_idle hb _⟩
  case busy =>
    exact ⟨unlessBusy_of_busy hb _, unlessBusy_of_busy hb _, unlessBusy_of_busy hb _,
      unlessBusy_of_busy hb _, unlessBusy_of_busy hb _⟩

end Sys2Proof.Proofs
end

section
/-! PROOFS of the family 20_memory: a first acknowledgement that fails validation ends an exchange, and
payload moves only after one that validates (R51). -/

namespace Sys2Proof.Machine

variable {i : Instr} {s t : State} {cmd : Command} {a : Args} {e : EngineError}

/-! ### A first acknowledgement that fails validation -/

/-- Where the data an instruction sends is there, its length is the payload's. -/
theorem Instr.dlen_of_dataFits (hd : i.DataFits s)
    (hi : (∃ n, i = .writeProgramArea n) ∨ ∃ a0 a1 a2, i = .cmdWriteProgramArea a0 a1 a2) :
    s.dlen.toNat = i.sendSize s.cfg := by
  obtain ⟨n, rfl⟩ | ⟨a0, a1, a2, rfl⟩ := hi <;> exact hd

/-- A scripted acknowledgement that fails validation ends whichever exchange runs: a read has lost its
payload, and otherwise only the command and that acknowledgement have moved. -/
theorem Exchange.badAck {k0 k1 k2 k3 : Nat} {rest : List Bool} {f : Frame} {more : List Chunk}
    (h : Exchange i s cmd a t) (hd : i.DataFits s)
    (hs : s.Scripted [k0, k1, k2, k3] rest (frameChunks f) more)
    (hv : validate f (s.cfg.ackOf cmd) = some e) :
    t = raiseError e (lostIf i { afterExchange s [k0, k1, k2, k3] rest more
      (buildFrame (s.cfg.opcode cmd) a) f with req := i.latched s }) := by
  cases h with
  | sizeMismatch op _ hne hi => exact absurd (Instr.dlen_of_dataFits hd hi) hne
  | plain op tail _ hr =>
    obtain ⟨hb, hready, hlink⟩ := hs
    rw [lostIf, hr, transact_scripted cmd a k0 k1 k2 k3 (started (i.latched s) op s) rest f more
      hready hlink hb, show (started (i.latched s) op s).cfg = s.cfg from rfl, hv]
    rfl
  | read op n _ hr =>
    rw [lostIf, hr, readExchange_badAck cmd a _ k0 k1 k2 k3 (started (i.latched s) op s) rest f more e
      hs hv]
    rfl
  | verify op hi =>
    subst hi
    rw [readExchange_badAck cmd a _ k0 k1 k2 k3 (started _ op s) rest f more e hs hv]
    rfl
  | write op n _ hr =>
    rw [lostIf, hr, writeExchange_badAck cmd a _ k0 k1 k2 k3 (started (i.latched s) op s) rest f more e
      hs hv]
    rfl

/-! ### What has moved by the first acknowledgement -/

/-- Where a command and its acknowledgement came first, that acknowledgement was received first. -/
theorem received_begins_with_ack {ks : List Nat} (c : Frame) {f : Frame} {d : List Event}
    (hn : ks.length = 4) (h : commandEvents ks c f <+: d) : frameChunks f <+: received d := by
  obtain ⟨d, rfl⟩ := h
  rw [received_append, received_commandEvents ks c f hn]
  exact List.prefix_append _ _

/-- However an exchange ends, it sent and received no more than a frame each, or what it received begins
with a frame that validates (R51). -/
theorem Outcome.frames_or_validated (h : Outcome i s cmd a t) : ∃ d, t.hist = s.hist ++ d ∧
    ((sent d).length ≤ 2 ∧ (received d).length ≤ 2 ∨
      ∃ f, validate f (s.cfg.ackOf cmd) = none ∧ frameChunks f <+: received d) := by
  cases h with
  | sizeMismatch => exact ⟨[], (List.append_nil _).symm, .inl ⟨Nat.zero_le _, Nat.zero_le _⟩⟩
  | commandTimeout _ ks cs _ _ hn hc =>
    refine ⟨_, by rw [lostIf_eq]; rfl, .inl ⟨?_, ?_⟩⟩
    · simp [sent_sentEvents]
    · simp [received_rcvdEvents]; omega
  | badAck _ ks f _ _ _ hn =>
    refine ⟨_, by rw [lostIf_eq]; rfl, .inl ⟨?_, ?_⟩⟩
    · rw [sent_commandEvents ks _ f hn, frameChunks_length]
    · rw [received_commandEvents ks _ f hn, frameChunks_length]
  | plainDone _ _ _ _ _ _ _ hn hv | selfTestFailed _ _ _ _ _ _ _ hn hv =>
    exact ⟨_, rfl, .inr ⟨_, hv, received_begins_with_ack _ hn List.prefix_rfl⟩⟩
  | readTimeout _ _ _ _ _ _ _ _ hn _ _ hv | writeTimeout _ _ _ _ _ _ _ _ hn _ _ hv =>
    exact ⟨_, rfl, .inr ⟨_, hv,
      received_begins_with_ack (buildFrame (s.cfg.opcode cmd) a) hn (by simp)⟩⟩
  | secondTimeout _ _ _ _ _ _ _ _ _ _ hn _ _ _ _ hv =>
    exact ⟨_, rfl, .inr ⟨_, hv,
      received_begins_with_ack (buildFrame (s.cfg.opcode cmd) a) hn (by simp)⟩⟩
  | readDone _ _ _ _ _ _ _ _ _ hn _ _ hv ht =>
    obtain ⟨_, rfl⟩ | ⟨rfl, -⟩ := ht <;>
      exact ⟨_, rfl, .inr ⟨_, hv, received_begins_with_ack _ hn (List.prefix_append _ _)⟩⟩
  | writeEnd _ _ _ _ _ _ _ _ _ _ _ hn _ _ _ hv ht =>
    obtain ⟨-, rfl⟩ | ⟨_, -, rfl⟩ := ht <;>
      exact ⟨_, rfl, .inr ⟨_, hv,
        received_begins_with_ack (buildFrame (s.cfg.opcode cmd) a) hn (by simp)⟩⟩

end Sys2Proof.Machine

namespace Sys2Proof.Proofs

open Sys2Proof.Machine

/-- Settles O27: every exchange begins with `Transact`, which ends at the frame that fails. -/
theorem badFirstAcknowledgementStops : Obligations.BadFirstAcknowledgementStops := by
  unfold Obligations.BadFirstAcknowledgementStops
  intro i s cmd a k0 k1 k2 k3 rest ack more e hx hw hd ha hs hv
  obtain ⟨t, h⟩ := exec_exchange_of_admits hx hw hd ha
  rw [h, (exec_exchange_next hx h).2.badAck hd hs hv, lostIf]
  split <;> rfl

/-- Settles O35: of the ends of an exchange, only those after a validated acknowledgement moved more
than a frame each way. -/
theorem payloadOnlyAfterValidatedAck : Obligations.PayloadOnlyAfterValidatedAck := by
  unfold Obligations.PayloadOnlyAfterValidatedAck
  intro i s t cmd a hx h
  obtain ⟨d, hd, ⟨hsent, hreceived⟩ | hack⟩ := (exec_exchange_outcome hx h).2.frames_or_validated
  · exact ⟨d, hd, fun hmore => by omega⟩
  · exact ⟨d, hd, fun _ => hack⟩

end Sys2Proof.Proofs
end

section
/-! PROOFS of the family 30_encoding: the decoder reads back what the encoder writes and accepts nothing
else, the placement of operands, and two readings of frames: an acknowledgement received as an
instruction, and SetCodeProtect as the WriteByte it stands for. -/

namespace Sys2Proof

/-! ### The ten frames as one table -/

/-- A row of the opcode table that is a frame: its opcode and its instruction (R60, R63). -/
abbrev FrameRow := Byte × (Args → Instr)

/-- The seven commands (R66). -/
def commandRows (c : Config) : List FrameRow :=
  [(c.opcReadSwVersion, fun a => .cmdReadSwVersion a.arg0 a.arg1 a.arg2),
   (c.opcReadFlashPage, fun a => .cmdReadFlashPage a.arg0 a.arg1 a.arg2),
   (c.opcWriteProgramArea, fun a => .cmdWriteProgramArea a.arg0 a.arg1 a.arg2),
   (c.opcWriteFlashPage, fun a => .cmdWriteFlashPage a.arg0 a.arg1 a.arg2),
   (c.opcWriteFlashByte, fun a => .cmdWriteFlashByte a.arg0 a.arg1 a.arg2),
   (c.opcRunBist, fun a => .cmdRunBist a.arg0 a.arg1 a.arg2),
   (c.opcReadProgramArea, fun a => .cmdReadProgramArea a.arg0 a.arg1 a.arg2)]

/-- The three acknowledgements (R63). -/
def ackRows (c : Config) : List FrameRow :=
  [(c.ackOk, fun a => .ackOk a.arg0 a.arg1 a.arg2),
   (c.ackVersion, fun a => .ackVersion a.arg0 a.arg1 a.arg2),
   (c.ackBist, fun a => .ackBist a.arg0 a.arg1 a.arg2)]

/-- The first row with the opcode of a frame, read as an instruction. -/
def decodeRows (f : Frame) : List FrameRow → Decoded
  | [] => .bad .unknownOpcode
  | r :: rs => if f.opcode = r.1 then .ok (r.2 ⟨f.arg0, f.arg1, f.arg2⟩) else decodeRows f rs

variable {c : Config} {i : Instr} {f : Frame} {r : FrameRow} {rs : List FrameRow} {a : Args}
  {bs : List Byte}

/-- The decoder tries the commands, then the acknowledgements. -/
theorem decodeOpcode_eq_decodeRows (c : Config) (f : Frame) :
    decodeOpcode c f = decodeRows f (commandRows c ++ ackRows c) := rfl

/-- R7's condition speaks of the opcodes of these rows. -/
theorem commandRows_opcodes (c : Config) : (commandRows c).map Prod.fst = c.opcodes.take 7 := rfl

theorem frameRows_opcodes (c : Config) :
    (commandRows c ++ ackRows c).map Prod.fst = c.opcodes := rfl

/-- Among rows with distinct opcodes each is the one its own frame is read by, whatever rows follow. -/
theorem decodeRows_of_nodup (hn : (rs.map Prod.fst).Nodup) (hr : r ∈ rs) (later : List FrameRow) :
    decodeRows (buildFrame r.1 a) (rs ++ later) = .ok (r.2 a) := by
  induction rs with
  | nil => cases hr
  | cons q qs ih =>
    obtain ⟨hq, hqs⟩ := List.nodup_cons.1 hn
    obtain rfl | hr := List.mem_cons.1 hr
    · exact if_pos rfl
    · have hne : r.1 ≠ q.1 := fun h => hq (h ▸ List.mem_map_of_mem hr)
      exact (if_neg hne).trans (ih hqs hr)

/-- A frame that is read at all is read by a row with its opcode. -/
theorem decodeRows_ok (h : decodeRows f rs = .ok i) :
    ∃ r ∈ rs, f.opcode = r.1 ∧ i = r.2 ⟨f.arg0, f.arg1, f.arg2⟩ := by
  induction rs with
  | nil => cases h
  | cons q qs ih =>
    rw [decodeRows] at h
    split at h
    · next ho => cases h; exact ⟨q, List.mem_cons_self, ho, rfl⟩
    · obtain ⟨r, hr, hf⟩ := ih h
      exact ⟨r, List.mem_cons_of_mem _ hr, hf⟩

/-- A row's instruction takes any three bytes, and is encoded as the frame with the row's opcode (R60,
R63). -/
theorem wf_encode_frameRow (hr : r ∈ commandRows c ++ ackRows c) (a : Args) :
    (r.2 a).wf = true ∧ encode c (r.2 a) = (buildFrame r.1 a).bytes := by
  simp only [commandRows, ackRows, List.cons_append, List.nil_append, List.mem_cons, List.not_mem_nil,
    or_false] at hr
  obtain rfl | rfl | rfl | rfl | rfl | rfl | rfl | rfl | rfl | rfl := hr <;> exact ⟨rfl, rfl⟩

/-- An instruction without a selector is a command frame, or an acknowledgement frame, which runs no
exchange. -/
theorem Instr.frameRow_of_opsel?_eq_none (c : Config) (h : i.opsel? = none) :
    (∃ a, ∃ r ∈ commandRows c, i = r.2 a) ∨
      (∃ a, ∃ r ∈ ackRows c, i = r.2 a) ∧ i.exchange? c = none := by
  cases i with
  | cmdReadSwVersion a0 a1 a2 | cmdReadFlashPage a0 a1 a2 | cmdWriteProgramArea a0 a1 a2
  | cmdWriteFlashPage a0 a1 a2 | cmdWriteFlashByte a0 a1 a2 | cmdRunBist a0 a1 a2
  | cmdReadProgramArea a0 a1 a2 => exact .inl ⟨⟨a0, a1, a2⟩, by simp [commandRows]⟩
  | ackOk a0 a1 a2 | ackVersion a0 a1 a2 | ackBist a0 a1 a2 =>
    exact .inr ⟨⟨⟨a0, a1, a2⟩, by simp [ackRows]⟩, rfl⟩
  | _ => cases h

/-- The frame of a row is read as the row's instruction, where the rows up to it differ in opcode. -/
theorem decode_encode_frameRow {later : List FrameRow}
    (hrows : commandRows c ++ ackRows c = rs ++ later) (hn : (rs.map Prod.fst).Nodup) (hr : r ∈ rs)
    (a : Args) : decode c (encode c (r.2 a)) = .ok (r.2 a) := by
  rw [(wf_encode_frameRow (hrows ▸ List.mem_append_left later hr) a).2, decode_buildFrame,
    decodeOpcode_eq_decodeRows, hrows, decodeRows_of_nodup hn hr]

/-- A frame that decodes to an instruction is that instruction's encoding. -/
theorem decodeFrame_ok (h : decodeFrame c f = .ok i) : i.wf = true ∧ encode c i = f.bytes := by
  rw [decodeFrame] at h
  split at h
  · cases h
  · next hs =>
    split at h
    · cases h
    · next hc =>
      have hf : frameOk f = true := by
        simp [frameOk, Bool.eq_true_of_not_eq_false hs, not_not.1 hc]
      rw [decodeOpcode_eq_decodeRows] at h
      obtain ⟨r, hr, ho, rfl⟩ := decodeRows_ok h
      obtain ⟨hw, henc⟩ := wf_encode_frameRow hr ⟨f.arg0, f.arg1, f.arg2⟩
      exact ⟨hw, by rw [henc, ← ho, buildFrame_of_frameOk hf]⟩

/-! ### The operations of the HOST port

Each layout of operand bytes (R62, log entry 2) reads back the operands it was written from. -/

theorem Byte.toNat_lt (b : Byte) : b.toNat < 256 := b.isLt

theorem toNat_ofNat_byte {n : Nat} (h : n < 2 ^ 8) : (BitVec.ofNat 8 n).toNat = n :=
  (BitVec.toNat_ofNat n 8).trans (Nat.mod_eq_of_lt h)

theorem decode1_ofNat (k : Nat → Instr) {n : Nat} (h : n < 2 ^ 8) :
    decode1 k [BitVec.ofNat 8 n] = .ok (k n) := by
  rw [decode1, toNat_ofNat_byte h]

theorem decode2_ofNat (k : Nat → Nat → Instr) {m n : Nat} (hm : m < 2 ^ 8) (hn : n < 2 ^ 8) :
    decode2 k [BitVec.ofNat 8 m, BitVec.ofNat 8 n] = .ok (k m n) := by
  rw [decode2, toNat_ofNat_byte hm, toNat_ofNat_byte hn]

theorem decodeHalf_bytes16 (k : Nat → Instr) {n : Nat} (h : n < 2 ^ 16) :
    decodeHalf k (bytes16 n) = .ok (k n) := by
  rw [bytes16, decodeHalf, nat16_bytes h]

theorem decodeHalfByte_bytes16 (k : Nat → Nat → Instr) {m n : Nat} (hm : m < 2 ^ 16)
    (hn : n < 2 ^ 8) : decodeHalfByte k (bytes16 m ++ [BitVec.ofNat 8 n]) = .ok (k m n) := by
  rw [bytes16, List.cons_append, List.cons_append, List.nil_append, decodeHalfByte, nat16_bytes hm,
    toNat_ofNat_byte hn]

theorem decodeSize_bytes24 (k : Nat → Instr) {n : Nat} (h : n < 2 ^ 17) :
    decodeSize k (bytes24 n) = .ok (k n) := by
  have htop : (BitVec.ofNat 8 (n / 65536)).toNat < 2 := by simp only [BitVec.toNat_ofNat]; omega
  rw [bytes24, decodeSize, if_pos htop, nat24_bytes (by omega)]

/-- An operation's selector and operand bytes are read as that operation (R61, R62). -/
theorem decode_encode_operation (c : Config) (ho : i.opsel?.isSome = true) (hw : i.wf = true) :
    decode c (encode c i) = .ok i := by
  cases i with
  | buildCommand | validateResponse | isReady | send | readSwVersion | runSelfTest | setCodeProtect
  | verifyCodeProtect => rfl
  | waitReady n => exact decodeHalf_bytes16 _ (of_decide_eq_true hw)
  | receive n => exact decodeSize_bytes24 _ (of_decide_eq_true hw)
  | readPage p n =>
    obtain ⟨hp, hn⟩ := Bool.and_eq_true_iff.1 hw
    exact decode2_ofNat _ (of_decide_eq_true hp) (of_decide_eq_true hn)
  | writeByte a v =>
    obtain ⟨ha, hv⟩ := Bool.and_eq_true_iff.1 hw
    exact decodeHalfByte_bytes16 _ (of_decide_eq_true ha) (of_decide_eq_true hv)
  | writePage n | writeProgramArea n | readProgramArea n =>
    exact decode1_ofNat _ (of_decide_eq_true hw)
  | _ => cases ho

/-! And it accepts nothing else. -/

theorem decode4_ok {k : Byte → Byte → Byte → Byte → Instr} (h : decode4 k bs = .ok i) :
    ∃ a b d e, bs = [a, b, d, e] ∧ i = k a b d e := by
  unfold decode4 at h
  split at h <;> cases h
  exact ⟨_, _, _, _, rfl, rfl⟩

theorem decodeValidate_ok (h : decodeValidate bs = .ok i) :
    ∃ (f : Frame) (e : Byte), bs = f.bytes ++ [e] ∧ i = .validateResponse f e := by
  unfold decodeValidate at h
  split at h <;> cases h
  exact ⟨_, _, rfl, rfl⟩

theorem decode0_ok {k : Instr} (h : decode0 k bs = .ok i) : bs = [] ∧ i = k := by
  unfold decode0 at h
  split at h <;> cases h
  exact ⟨rfl, rfl⟩

theorem decode1_ok {k : Nat → Instr} (h : decode1 k bs = .ok i) :
    ∃ b : Byte, bs = [b] ∧ i = k b.toNat := by
  unfold decode1 at h
  split at h <;> cases h
  exact ⟨_, rfl, rfl⟩

theorem decode2_ok {k : Nat → Nat → Instr} (h : decode2 k bs = .ok i) :
    ∃ a b : Byte, bs = [a, b] ∧ i = k a.toNat b.toNat := by
  unfold decode2 at h
  split at h <;> cases h
  exact ⟨_, _, rfl, rfl⟩

theorem decodeHalf_ok {k : Nat → Instr} (h : decodeHalf k bs = .ok i) :
    ∃ hi lo, bs = [hi, lo] ∧ i = k (nat16 hi lo) := by
  unfold decodeHalf at h
  split at h <;> cases h
  exact ⟨_, _, rfl, rfl⟩

theorem decodeHalfByte_ok {k : Nat → Nat → Instr} (h : decodeHalfByte k bs = .ok i) :
    ∃ hi lo v, bs = [hi, lo, v] ∧ i = k (nat16 hi lo) v.toNat := by
  unfold decodeHalfByte at h
  split at h <;> cases h
  exact ⟨_, _, _, rfl, rfl⟩

theorem decodeSize_ok {k : Nat → Instr} (h : decodeSize k bs = .ok i) :
    ∃ top hi lo : Byte, bs = [top, hi, lo] ∧ top.toNat < 2 ∧ i = k (nat24 top hi lo) := by
  unfold decodeSize at h
  split at h
  · split at h <;> cases h
    exact ⟨_, _, _, rfl, ‹_›, rfl⟩
  · cases h

theorem decodeFrameBytes_ok (h : decodeFrameBytes c bs = .ok i) :
    ∃ f : Frame, bs = f.bytes ∧ decodeFrame c f = .ok i := by
  unfold decodeFrameBytes at h
  split at h
  · exact ⟨_, rfl, h⟩
  · cases h

/-- An operation that decodes has operands that fit, and its encoding is the selector and the bytes
read. -/
theorem decodeOp_ok (c : Config) : ∀ {sel : Nat}, decodeOp sel bs = .ok i →
    i.wf = true ∧ encode c i = BitVec.ofNat 8 sel :: bs
  | 0, h => by obtain ⟨a, b, d, e, rfl, rfl⟩ := decode4_ok h; exact ⟨rfl, rfl⟩
  | 1, h => by obtain ⟨f, e, rfl, rfl⟩ := decodeValidate_ok h; exact ⟨rfl, rfl⟩
  | 3, h => by
    obtain ⟨hi, lo, rfl, rfl⟩ := decodeHalf_ok h
    exact ⟨decide_eq_true (nat16_lt hi lo), congrArg (List.cons 3) (bytes16_nat16 hi lo)⟩
  | 5, h => by
    obtain ⟨top, hi, lo, rfl, ht, rfl⟩ := decodeSize_ok h
    exact ⟨decide_eq_true (nat24_lt hi lo ht), congrArg (List.cons 5) (bytes24_nat24 top hi lo)⟩
  | 7, h => by
    obtain ⟨a, b, rfl, rfl⟩ := decode2_ok h
    simp [Instr.wf, encode, Byte.toNat_lt]
  | 9, h => by
    obtain ⟨hi, lo, v, rfl, rfl⟩ := decodeHalfByte_ok h
    have hn : nat16 hi lo < 65536 := nat16_lt hi lo
    simp [Instr.wf, encode, bytes16_nat16, Byte.toNat_lt, hn]
  | 8, h | 10, h | 11, h => by
    obtain ⟨b, rfl, rfl⟩ := decode1_ok h
    simp [Instr.wf, encode, Byte.toNat_lt]
  | 2, h | 4, h | 6, h | 12, h | 13, h | 14, h => by
    obtain ⟨rfl, rfl⟩ := decode0_ok h; exact ⟨rfl, rfl⟩
  | 15, h | _ + 16, h => nomatch h

/-- Above the selectors there is nothing (R61, log entry 2). -/
theorem decodeOp_of_gt {sel : Nat} (h : 15 < sel) : decodeOp sel bs = .bad .badSelectorByte := by
  obtain ⟨n, rfl⟩ := Nat.exists_eq_add_of_le' h
  rfl

end Sys2Proof

namespace Sys2Proof.Machine

variable {s : State}

/-! ### Receiving an acknowledgement frame as an instruction (log entry 6) -/

/-- A frame that the engine itself would build for an opcode validates against it (R81, R83). -/
theorem validate_buildFrame (o : Byte) (r : Args) : validate (buildFrame o r) o = none :=
  (validate_eq_none_iff _ _).2 ⟨frameOk_buildFrame o r, rfl⟩

/-- The state in which a scripted acknowledgement has been received and accepted. -/
def ackReceived (op : OpName) (ack : Frame) (k l : Nat) (rest : List Bool) (s : State) : State :=
  { s with
    rxf := some ack, readyIn := rest
    hist := s.hist ++ rcvdEvents [k, l] (frameChunks ack)
    pollcnt := pollcntAfter s.pollcnt [k, l]
    xcnt := 8
    seq := ⟨op, .valAck1, 8⟩, busy := true }

/-- The frame an instruction delivers is the next the engine receives, and it validates; the link is
then as it was (R63, R112). -/
theorem runAck_scripted {k l : Nat} {rest : List Bool} (hk : withinBound s.maxatt [k, l])
    (hr : s.readyIn = answers [k, l] ++ rest) (op : OpName) (o : Byte) (r : Args) :
    runAck op o r s = .ok (buildFrame o r) (ackReceived op (buildFrame o r) k l rest s) := by
  rw [runAck, recvAck_scripted .rxAck1 .valAck1 o k l
    (beginFrame op (deliverFrame (buildFrame o r) s)) rest _ s.linkIn hr rfl hk, validate_buildFrame]
  rfl

/-- An admitted reception ends as its row does with the accepted frame. -/
theorem admitted_runAck {k l : Nat} {rest : List Bool} (ha : s.Admits)
    (hk : withinBound s.maxatt [k, l]) (hr : s.readyIn = answers [k, l] ++ rest) (op : OpName)
    (o : Byte) (r : Args) (tail : Frame → State → Run OpResult) :
    admitted s (.next (finish ((runAck op o r s).bind tail))) =
      .next (finish (tail (buildFrame o r) (ackReceived op (buildFrame o r) k l rest s))) := by
  rw [admitted_of_admits ha, runAck_scripted hk hr, Run.bind_ok]

/-- The value test of R120 on a zero byte. -/
theorem testBist_pass {f : Frame} (h : bistByte s.cfg.bistResultOff f = 0) :
    testBist f s = .ok .nothing (setPhase .post s) := if_neg (not_not.2 h)

/-- The value test of R120 on any other byte. -/
theorem testBist_fail {f : Frame} (h : bistByte s.cfg.bistResultOff f ≠ 0) :
    testBist f s = .raised .selfTestFailure (setPhase .post s) := if_pos h

/-! ### Operands -/

theorem thirdOperand_place (m : ArgPerm) (x y z : Byte) : thirdOperand m (place m x y z) = z := by
  cases m <;> rfl

/-- R64's own `ARGMAP` puts every command's operands in the order of its row. -/
theorem perm_of_argMapR64 {c : Config} (h : c.argMap = Config.argMapR64) (cmd : Command) :
    c.perm cmd = .p012 := by
  cases cmd <;> simp only [Config.perm, h] <;> rfl

/-! ### SetCodeProtect and its WriteByte (R69, R123) -/

/-- The protect byte's address is in range, and it is the one SetCodeProtect takes. -/
theorem narrow_protectAddress (c : Config) :
    narrow 16 (c.configPage.toNat * 256 + 1) = some (protectAddress c) := by
  have := c.configPage.isLt
  exact narrow_of_lt (by omega)

/-- Starting one operation is starting any other, relabelled. -/
theorem beginOp_relabel (p o : OpName) (q r : Request) (s : State) :
    (beginOp o r s).relabel (some q) p = beginOp p q s := rfl

theorem exec_writeByte_protect (ha : s.Admits) :
    exec (.writeByte (s.cfg.configPage.toNat * 256 + 1) 0) s =
      .next (finish (runWriteByte (argsOf s.cfg .writeFlashByte s.cfg.configPage 1 0)
        (beginOp .writeByte (.writeByte (protectAddress s.cfg) 0) s))) := by
  rw [exec, execWriteByte, admitted_of_admits ha, narrow_protectAddress, narrow_of_lt (by decide)]
  simp only [pam_protectAddress, BitVec.ofNat_eq_ofNat]

theorem exec_setCodeProtect_of_admits (ha : s.Admits) :
    exec .setCodeProtect s =
      .next (finish (runWriteByte (argsOf s.cfg .writeFlashByte s.cfg.configPage 1 0)
        (beginOp .setCodeProtect .setCodeProtect s))) := by
  rw [exec, execSetCodeProtect, admitted_of_admits ha, pam_protectAddress, Config.protectOnValue]

end Sys2Proof.Machine

namespace Sys2Proof.Proofs

open Sys2Proof.Machine

/-- Settles O47: an operation is read by its selector, and a frame by the only row with its opcode. -/
theorem decodeEncodeEveryInstruction : Obligations.DecodeEncodeEveryInstruction := by
  unfold Obligations.DecodeEncodeEveryInstruction
  intro c i hd hw
  cases ho : i.opsel? with
  | some op => exact decode_encode_operation c (by rw [ho]; rfl) hw
  | none =>
    have hframe : ∃ a, ∃ r ∈ commandRows c ++ ackRows c, i = r.2 a := by
      obtain ⟨a, r, hr, hi⟩ | ⟨⟨a, r, hr, hi⟩, -⟩ := Instr.frameRow_of_opsel?_eq_none c ho
      · exact ⟨a, r, List.mem_append_left _ hr, hi⟩
      · exact ⟨a, r, List.mem_append_right _ hr, hi⟩
    obtain ⟨a, r, hr, rfl⟩ := hframe
    exact decode_encode_frameRow (List.append_nil _).symm (by rwa [frameRows_opcodes]) hr a

/-- Settles O26: the frame delivered validates, and each row's tail ends with it. -/
theorem acknowledgementFrameResults : Obligations.AcknowledgementFrameResults := by
  unfold Obligations.AcknowledgementFrameResults
  intro s r k l rest ha hk hr t
  refine ⟨?ok, ?version, fun hz => ?pass, fun hz => ?fail⟩
  case ok => exact admitted_runAck ha hk hr ..
  case version => exact admitted_runAck ha hk hr ..
  case pass =>
    refine (admitted_runAck ha hk hr ..).trans ?_
    rw [testBist_pass (by exact hz)]
    rfl
  case fail =>
    refine (admitted_runAck ha hk hr ..).trans ?_
    rw [testBist_fail (by exact hz)]
    rfl

/-- Settles O45: both run write-flash-byte with the same argument bytes, and nothing in it looks at the
request it runs for. -/
theorem setCodeProtectIsWriteByte : Obligations.SetCodeProtectIsWriteByte := by
  unfold Obligations.SetCodeProtectIsWriteByte
  intro s ha
  refine ⟨_, exec_writeByte_protect ha, ?_⟩
  rw [exec_setCodeProtect_of_admits ha, ← beginOp_relabel .setCodeProtect .writeByte .setCodeProtect
    (.writeByte (protectAddress s.cfg) 0), runWriteByte_relabel]

/-- Settles O46: an operation is read by its selector, and a command frame by the only command row with
its opcode, which the decoder tries before the acknowledgements. -/
theorem decodeEncodeOperationsAndCommands : Obligations.DecodeEncodeOperationsAndCommands := by
  unfold Obligations.DecodeEncodeOperationsAndCommands
  intro c i hd hw hi
  cases ho : i.opsel? with
  | some op => exact decode_encode_operation c (by rw [ho]; rfl) hw
  | none =>
    obtain ⟨a, r, hr, rfl⟩ | ⟨-, hx⟩ := Instr.frameRow_of_opsel?_eq_none c ho
    · exact decode_encode_frameRow rfl (by rwa [commandRows_opcodes]) hr a
    · simp [ho, hx] at hi

/-- Settles O48: the first byte chooses between a frame and an operation, and each kind of bytes that is
accepted is the encoding of what it is read as. -/
theorem decodedBytesAreTheEncoding : Obligations.DecodedBytesAreTheEncoding := by
  unfold Obligations.DecodedBytesAreTheEncoding
  intro c bs i h
  cases bs with
  | nil => cases h
  | cons b bs =>
    rw [decode] at h
    split at h
    · obtain ⟨f, hbs, hf⟩ := decodeFrameBytes_ok h
      rw [hbs]
      exact decodeFrame_ok hf
    · simpa using decodeOp_ok c h

/-- Settles O44: `place` and the three operand readers are inverse under each permutation. -/
theorem argMapPlacesOperands : Obligations.ArgMapPlacesOperands := by
  unfold Obligations.ArgMapPlacesOperands
  refine ⟨fun c cmd x y z h => ?_, fun m x y z =>
    ⟨firstOperand_place m x y z, secondOperand_place m x y z, thirdOperand_place m x y z⟩⟩
  rw [argsOf, perm_of_argMapR64 h, place]

/-- Settles O49: the request is decoded before a flag is tested, and neither byte selects anything. -/
theorem reservedSelectorIsRefused : Obligations.ReservedSelectorIsRefused := by
  unfold Obligations.ReservedSelectorIsRefused
  intro s b bs
  refine ⟨rfl, fun hb hsync => ?_⟩
  rw [runRequest, decode, if_neg (by exact hsync), decodeOp_of_gt hb]
  rfl

/-- Settles O50: five requests under `REF`, read by evaluation. -/
theorem wordsDecodeToTheirInstructions : Obligations.WordsDecodeToTheirInstructions := by
  unfold Obligations.WordsDecodeToTheirInstructions
  decide

end Sys2Proof.Proofs
end

section
/-! PROOFS of the family 40_frame_codec: what the two pure operations write, and which test of R83 each
frame meets. -/

namespace Sys2Proof

variable {f g : Frame} {e : Byte}

/-! ### The tests of R83, on the bytes of a frame -/

theorem frameOk_iff : frameOk f = true ↔ syncOk f = true ∧ f.checksum = checksumOf f := by
  rw [frameOk, Bool.and_eq_true, beq_iff_eq]

theorem syncOk_eq_false_iff :
    syncOk f = false ↔ f.sync0 ≠ 0xA5 ∨ f.sync1 ≠ 0x5A ∨ f.sync2 ≠ 0xA5 := by
  simp only [syncOk, Bool.and_eq_false_iff, beq_eq_false_iff_ne, or_assoc, Config.sync0, Config.sync1,
    Config.sync2]

theorem syncOk_iff : syncOk f = true ↔ f.sync0 = 0xA5 ∧ f.sync1 = 0x5A ∧ f.sync2 = 0xA5 := by
  simp only [syncOk, Bool.and_eq_true, beq_iff_eq, and_assoc, Config.sync0, Config.sync1, Config.sync2]

/-! ### The checksum of a built frame -/

/-- The sync byte the sum begins with (offset 2) is 91 below zero, modulo 256 (R81). -/
theorem sync_add_eq_zero_iff (b : Byte) : 0xA5 + b = 0 ↔ b = 91 := by
  rw [show (0xA5 : Byte) = -91 from rfl, neg_add_eq_zero, eq_comm]

/-! ### Which answer of `validate` a frame meets (R83, R84) -/

namespace Machine

theorem validate_of_checksum_ne (h : f.checksum ≠ checksumOf f) :
    validate f e = some .checksumMismatch := if_pos h

/-- Once the checksum is right, what is left of the judgement never names it. -/
theorem validate_of_checksum_eq (h : f.checksum = checksumOf f) :
    validate f e = if syncOk f = false ∨ f.opcode ≠ e then some .unexpectedResponse else none := by
  rw [validate, if_neg (not_not.2 h), ite_or]

theorem validate_eq_checksumMismatch_iff :
    validate f e = some .checksumMismatch ↔ f.checksum ≠ checksumOf f := by
  refine ⟨fun hv hc => ?_, validate_of_checksum_ne⟩
  rw [validate_of_checksum_eq hc] at hv
  split at hv <;> cases hv

theorem validate_eq_unexpectedResponse_iff :
    validate f e = some .unexpectedResponse ↔
      f.checksum = checksumOf f ∧ (syncOk f = false ∨ f.opcode ≠ e) := by
  by_cases hc : f.checksum = checksumOf f
  · simp only [validate_of_checksum_eq hc, Option.ite_none_right_eq_some, hc, true_and, and_true]
  · simp [validate_of_checksum_ne hc, hc]

/-! ### Frames that differ from a well-formed one (R85) -/

/-- A frame that keeps the checksum byte of a well-formed one but not its sum is caught by the first
test. -/
theorem validate_of_checksumOf_ne (h : frameOk f = true) (hk : g.checksum = f.checksum)
    (hs : checksumOf g ≠ checksumOf f) : validate g e = some .checksumMismatch := by
  obtain ⟨-, hc⟩ := frameOk_iff.1 h
  exact validate_of_checksum_ne (hk.trans hc ▸ hs.symm)

/-- A frame that agrees with a well-formed one in its checksum byte and its sum passes the first test;
wrong sync bytes are caught by the second. -/
theorem validate_of_sync_changed (h : frameOk f = true) (hk : g.checksum = f.checksum)
    (hs : checksumOf g = checksumOf f) (hg : syncOk g = false) :
    validate g e = some .unexpectedResponse := by
  obtain ⟨-, hc⟩ := frameOk_iff.1 h
  exact validate_eq_unexpectedResponse_iff.2 ⟨hk.trans (hc.trans hs.symm), .inl hg⟩

end Machine

end Sys2Proof

namespace Sys2Proof.Proofs

open Sys2Proof.Machine

/-- Settles O1: the sum of five bytes is their sum modulo 256, however it is associated. -/
theorem checksumIsSumOfOffsetsTwoToSix : Obligations.ChecksumIsSumOfOffsetsTwoToSix := by
  unfold Obligations.ChecksumIsSumOfOffsetsTwoToSix
  intro f
  simp only [checksumOf_eq, BitVec.toNat_add, Nat.mod_add_mod]

/-- Settles O2: the frame is `buildFrame_eq`'s, and its checksum starts at the last sync byte. -/
theorem buildCommandResult : Obligations.BuildCommandResult := by
  unfold Obligations.BuildCommandResult
  intro s o a0 a1 a2 hb
  constructor
  · rw [exec, execBuildCommand, unlessBusy_of_idle hb, buildTxf, buildFrame_eq]
    rfl
  · rw [← sync_add_eq_zero_iff]
    simp only [BitVec.add_assoc]

/-- Settles O3: `STATUS` is R83's judgement, branch by branch. -/
theorem validateResponseResult : Obligations.ValidateResponseResult := by
  unfold Obligations.ValidateResponseResult
  intro s f e hb
  rw [exec, execValidateResponse, unlessBusy_of_idle hb]
  simp only [validate, syncOk_eq_false_iff]
  split_ifs <;> rfl

/-- Settles O4: one lemma for each answer of `validate`, read on the sync bytes. -/
theorem validateAcceptsExactly : Obligations.ValidateAcceptsExactly := by
  unfold Obligations.ValidateAcceptsExactly
  refine ⟨fun f e => ⟨?accepts, validate_eq_checksumMismatch_iff, ?unexpected⟩, fun e a => ?built⟩
  case accepts =>
    rw [validate_eq_none_iff, frameOk_iff, syncOk_iff, and_assoc, and_comm (a := f.checksum = _)]
  case unexpected =>
    rw [validate_eq_unexpectedResponse_iff, syncOk_eq_false_iff, or_assoc, or_assoc]
  case built => exact (validate_eq_none_iff _ _).2 ⟨frameOk_buildFrame e a, rfl⟩

/-- Settles O5: a changed summand changes the sum, a changed checksum byte leaves it, and offsets 0 and 1
are in neither. -/
theorem singleByteChangesAreDetected : Obligations.SingleByteChangesAreDetected := by
  unfold Obligations.SingleByteChangesAreDetected
  intro f v e h
  obtain ⟨hsync, hc⟩ := frameOk_iff.1 h
  obtain ⟨h0, h1, -⟩ := syncOk_iff.1 hsync
  refine ⟨?sync2, ?opcode, ?arg0, ?arg1, ?arg2, ?checksum, ?sync0, ?sync1⟩ <;> intro hv
  case sync2 | opcode | arg0 | arg1 | arg2 =>
    refine validate_of_checksumOf_ne h rfl ?_
    simpa only [checksumOf_eq, ne_eq, add_left_inj, add_right_inj] using hv
  case checksum => exact validate_of_checksum_ne (hc ▸ hv)
  case sync0 => exact validate_of_sync_changed h rfl rfl (syncOk_eq_false_iff.2 (.inl (h0 ▸ hv)))
  case sync1 =>
    exact validate_of_sync_changed h rfl rfl (syncOk_eq_false_iff.2 (.inr (.inl (h1 ▸ hv))))

end Sys2Proof.Proofs
end

section
/-! PROOFS of the family 41_readiness_gate: a readiness sample reads nothing that an operation sets as it
begins, and an admitted WaitReady is its poll loop with all its attempts left. -/

namespace Sys2Proof.Machine

variable {s : State}

/-- A gate's events as R93 counts them. -/
theorem gateEvents_eq_append (k : Nat) :
    gateEvents k = List.replicate k (.poll false) ++ [.poll true] := by
  simp [gateEvents, gateAnswers]

/-- `REQ`, `SEQ` and `BUSY` do not bear on what the MODULE answers. -/
theorem nextReady_beginOp (op : OpName) (r : Request) (s : State) :
    nextReady (beginOp op r s) = ((nextReady s).1, beginOp op r (nextReady s).2) := by
  unfold nextReady beginOp
  cases s.readyIn <;> rfl

/-- Where WaitReady's poll loop begins: `REQ` latched and `POLLCNT <- 0` (R13, R92). -/
def beginWait (n : Nat) (s : State) : State :=
  { beginOp .waitReady (.waitReady (BitVec.ofNat 16 n)) s with pollcnt := 0 }

@[simp] theorem beginWait_pollcnt (n : Nat) (s : State) : (beginWait n s).pollcnt = 0#16 := rfl

/-- An admitted WaitReady with a bound that fits is its poll loop with all `n` attempts left (R92). -/
theorem exec_waitReady_of_admits {n : Nat} (ha : s.Admits) (hn : n < 2 ^ 16) :
    exec (.waitReady n) s =
      .next (finish ((waitLoop n (beginWait n s)).bind fun _ u => .ok .nothing u)) := by
  rw [exec, execWaitReady, admitted_of_admits ha, narrow_of_lt hn]
  simp only [waitReady, beginWait, BitVec.toNat_ofNat, Nat.mod_eq_of_lt hn]

end Sys2Proof.Machine

namespace Sys2Proof.Proofs

open Sys2Proof.Machine

/-- Settles O7: `waitLoop_scripted` and `waitLoop_silent`, the loop counting from `POLLCNT = 0`. -/
theorem waitReadyScriptedResult : Obligations.WaitReadyScriptedResult := by
  unfold Obligations.WaitReadyScriptedResult
  intro s n k rest ha hn
  rw [exec_waitReady_of_admits ha hn]
  refine ⟨fun hk hr => ?ready, fun hr => ?silent⟩
  case ready =>
    rw [waitLoop_scripted n k (beginWait n s) rest hr hk, beginWait_pollcnt, BitVec.zero_add,
      gateEvents_eq_append, ← List.append_assoc]
    rfl
  case silent =>
    rw [waitLoop_silent n (beginWait n s) rest hr, beginWait_pollcnt, BitVec.zero_add]
    rfl

/-- Settles O8: of `waitLoop_cases`' two ends, a true poll is one of at most `n` and a timeout has made
`n` false ones; no count reaches 65536, so `POLLCNT` does not wrap. -/
theorem waitReadyPollAccounting : Obligations.WaitReadyPollAccounting := by
  unfold Obligations.WaitReadyPollAccounting
  intro s n ha hn
  have hcount : ∀ k ≤ n, ((beginWait n s).pollcnt + BitVec.ofNat 16 k).toNat = k := fun k hk => by
    rw [beginWait_pollcnt, BitVec.zero_add, BitVec.toNat_ofNat, Nat.mod_eq_of_lt (hk.trans_lt hn)]
  refine ⟨_, exec_waitReady_of_admits ha hn, ?_⟩
  obtain ⟨-, herr, -⟩ := ha
  obtain ⟨r, d, ⟨k, hk, h⟩ | h⟩ := waitLoop_cases n (beginWait n s)
  · rw [h, gateEvents_eq_append, ← List.append_assoc]
    exact .inl ⟨k, hk, rfl, herr, hcount k hk.le, rfl⟩
  · rw [h]
    exact .inr ⟨rfl, rfl, hcount n le_rfl, rfl⟩

/-- Settles O6: the sample is the MODULE's next answer, with one `Poll` recorded. -/
theorem isReadyIsOneSample : Obligations.IsReadyIsOneSample := by
  unfold Obligations.IsReadyIsOneSample
  intro s ha
  rw [exec, execIsReady, admitted_of_admits ha, sampleReady, nextReady_beginOp]
  simp only [record, beginOp, complete, nextReady_hist]

end Sys2Proof.Proofs
end

section
/-! PROOFS of the family 42_chunked_transport: an admitted Send or Receive of whole chunks is its chunk
loop from offset 0, for which the laws of the wire say what a scripted MODULE and what any MODULE makes
of it. -/

namespace Sys2Proof.Machine

variable {s : State} {m : BitVec 16} {ks : List Nat} {cs : List Chunk}

/-- The gates say how many chunks were sent: the chunks after those leave no event. -/
theorem sentEvents_take_length (ks : List Nat) (cs : List Chunk) :
    sentEvents ks (cs.take ks.length) = sentEvents ks cs := by
  induction ks generalizing cs with
  | nil => rw [sentEvents_nil, sentEvents_nil]
  | cons k ks ih => cases cs with
    | nil => rfl
    | cons c cs => rw [List.length_cons, List.take_succ_cons, sentEvents_cons, sentEvents_cons, ih]

/-! ### An admitted Send or Receive of whole chunks is its loop (R101, R103) -/

/-- Where Send's chunk loop begins: `REQ` latched, `SEQ` at the payload's phase (R13, R14). -/
def beginSend (s : State) : State := setPhase .txData (beginOp .send .send s)

/-- Where Receive's chunk loop begins. -/
def beginReceive (size : Nat) (s : State) : State :=
  setPhase .rxData (beginOp .receive (.receive (BitVec.ofNat 17 size)) s)

theorem exec_send_of_fits (ha : s.Admits) (hmax : s.dlen.toNat ≤ 65280) (h4 : s.dlen.toNat % 4 = 0) :
    exec .send s = .next (finish ((sendChunks (chunksOf (dbufBytes s s.dlen.toNat))
      (beginSend s)).bind fun _ u => .ok .nothing u)) := by
  rw [exec, execSend, admitted_of_admits ha]
  exact (if_neg (Nat.not_lt.2 hmax)).trans (if_neg (not_not.2 h4))

theorem exec_receive_of_fits {size : Nat} (ha : s.Admits) (hmax : size ≤ 65280) (h4 : size % 4 = 0) :
    exec (.receive size) s = .next (finish (((recvPayload size (beginReceive size s)).onRaise
      abandonRead).bind fun _ u => .ok .buffer u)) := by
  rw [exec, execReceive, admitted_of_admits ha]
  exact (if_neg (Nat.not_lt.2 hmax)).trans (if_neg (not_not.2 h4))

/-! ### The counts of a transfer that moved all its chunks (R104) -/

theorem sentEvents_counts (hb : withinBound m ks) (hl : ks.length = cs.length) :
    gated (sentEvents ks cs) = true ∧ (sent (sentEvents ks cs)).length = cs.length ∧
      received (sentEvents ks cs) = [] ∧ cs.length ≤ polls (sentEvents ks cs) ∧
      polls (sentEvents ks cs) ≤ cs.length * (m.toNat + 1) := by
  refine ⟨gated_sentEvents ks cs, ?_, received_sentEvents ks cs, hl ▸ polls_sentEvents m ks cs hb hl.le⟩
  rw [sent_sentEvents, hl, List.take_length]

theorem rcvdEvents_counts (hb : withinBound m ks) (hl : ks.length = cs.length) :
    gated (rcvdEvents ks cs) = true ∧ (received (rcvdEvents ks cs)).length = cs.length ∧
      sent (rcvdEvents ks cs) = [] ∧ cs.length ≤ polls (rcvdEvents ks cs) ∧
      polls (rcvdEvents ks cs) ≤ cs.length * (m.toNat + 1) := by
  refine ⟨gated_rcvdEvents ks cs, ?_, sent_rcvdEvents ks cs, hl ▸ polls_rcvdEvents m ks cs hb hl.le⟩
  rw [received_rcvdEvents, hl, List.take_length]

end Sys2Proof.Machine

namespace Sys2Proof.Proofs

open Sys2Proof.Machine

/-- Settles O9: `sendChunks_scripted` for the `DLEN / 4` chunks of `DBUF`, which are `DLEN` bytes. -/
theorem sendResult : Obligations.SendResult := by
  unfold Obligations.SendResult
  intro s ks rest ha hmax h4 hlen hb hr
  have hchunks := chunksOf_dbufBytes_length s s.dlen.toNat
  have hxcnt : BitVec.ofNat 17 (4 * (s.dlen.toNat / 4)) = s.dlen := by
    rw [Nat.mul_div_cancel' (Nat.dvd_of_mod_eq_zero h4), BitVec.ofNat_toNat, BitVec.setWidth_eq]
  rw [exec_send_of_fits ha hmax h4,
    sendChunks_scripted _ ks (beginSend s) rest (hlen.trans hchunks.symm) hr hb, hchunks, hxcnt]
  rfl

/-- Settles O10: `sendChunks_silent`, whose events are of the first `k` chunks only. -/
theorem sendTimeoutResult : Obligations.SendTimeoutResult := by
  unfold Obligations.SendTimeoutResult
  intro s ks rest ha hmax h4 hlen hb hr
  have hchunks := chunksOf_dbufBytes_length s s.dlen.toNat
  rw [exec_send_of_fits ha hmax h4,
    sendChunks_silent _ ks (beginSend s) rest (hlen.trans_eq hchunks.symm) hr hb,
    sentEvents_take_length]
  rfl

/-- Settles O11: `recvPayload_scripted`, which no error abandons. -/
theorem receiveResult : Obligations.ReceiveResult := by
  unfold Obligations.ReceiveResult
  intro s size ks cs rest more ha hmax h4 hks hcs ⟨hb, hr, hl⟩
  obtain ⟨n, rfl⟩ := Nat.dvd_of_mod_eq_zero h4
  rw [Nat.mul_div_cancel_left n (by decide)] at hks hcs
  rw [exec_receive_of_fits ha hmax h4,
    recvPayload_scripted n ks cs (beginReceive (4 * n) s) rest more hks hcs hr hl hb (by omega)]
  rfl

/-- Settles O12: `recvPayload_silent`, and the bytes it stored are lost with the rest of `DBUF`. -/
theorem receiveTimeoutResult : Obligations.ReceiveTimeoutResult := by
  unfold Obligations.ReceiveTimeoutResult
  intro s size ks cs rest more ha hmax h4 hks hcs ⟨hb, hr, hl⟩
  obtain ⟨n, rfl⟩ := Nat.dvd_of_mod_eq_zero h4
  rw [Nat.mul_div_cancel_left n (by decide)] at hks
  rw [exec_receive_of_fits ha hmax h4,
    recvPayload_silent n ks cs (beginReceive (4 * n) s) rest more hks hcs hr hl hb (by omega)]
  rfl

/-- Settles O14: of the two ends `exec_send_next` and `exec_receive_next` leave, only that in which every
chunk moved has `STATUS = OK`. -/
theorem transferEventCounts : Obligations.TransferEventCounts := by
  unfold Obligations.TransferEventCounts
  intro s t size hok
  refine ⟨fun h => ?send, fun h => ?receive⟩
  case send =>
    obtain ⟨-, -, -, w, ks, -, hb, ⟨hn, rfl⟩ | ⟨-, rfl⟩⟩ := exec_send_next h
    · have hchunks := chunksOf_dbufBytes_length s s.dlen.toNat
      rw [← hchunks]
      exact ⟨_, rfl, sentEvents_counts hb (by omega)⟩
    · cases hok
  case receive =>
    obtain ⟨-, -, -, w, ks, cs, -, hb, hc, ⟨hn, rfl⟩ | ⟨-, rfl⟩⟩ := exec_receive_next h
    · rw [← hn, Nat.mul_div_cancel_left _ (by decide), ← hc]
      exact ⟨_, rfl, rcvdEvents_counts hb hc.symm⟩
    · cases hok

/-- Settles O13: the capacity is tested before the multiple of 4. -/
theorem transferLengthRefusals : Obligations.TransferLengthRefusals := by
  unfold Obligations.TransferLengthRefusals
  intro s size ha
  rw [exec, execSend, admitted_of_admits ha, exec, execReceive, admitted_of_admits ha]
  refine ⟨fun hmax h4 => ?_, fun h => if_pos h, fun hmax h4 => ?_, fun h => if_pos h⟩
  · exact (if_neg (Nat.not_lt.2 hmax)).trans (if_pos h4)
  · exact (if_neg (Nat.not_lt.2 hmax)).trans (if_pos h4)

end Sys2Proof.Proofs
end

section
/-! PROOFS of the family 43_flash_page_access: an admitted operation of Flash Page Access is its exchange,
and so is the command frame it sends; each exchange is followed to its end once, for a scripted MODULE,
whichever request it runs for. -/

namespace Sys2Proof.Machine

variable {i : Instr} {s t : State} {cmd : Command} {a : Args} {q : Option Request} {op : OpName}
  {e : EngineError} {k0 k1 k2 k3 m0 m1 size : Nat} {ls : List Nat} {rest : List Bool} {f g : Frame}
  {c : Chunk} {cs more : List Chunk}

/-! ### The operations and their exchanges (R114 to R124) -/

theorem exec_readSwVersion_of_admits (ha : s.Admits) :
    exec .readSwVersion s = .next (finish (runReadSwVersion ⟨0, 0, 0⟩
      (started (some .readSwVersion) .readSwVersion s))) := by
  rw [exec, execReadSwVersion, admitted_of_admits ha, argsOf, place_zero, beginOp_eq_started]

theorem exec_readPage_of_admits {p n : Nat} (ha : s.Admits) (hp : p < 256) (hn : n < 256) :
    exec (.readPage p n) s = .next (finish (runReadPage
      (place s.cfg.argMap.readFlashPage (BitVec.ofNat 8 p) (BitVec.ofNat 8 n) 0) (BitVec.ofNat 8 n)
      (started (some (.readPage (BitVec.ofNat 8 p) (BitVec.ofNat 8 n))) .readPage s))) := by
  rw [exec, execReadPage, admitted_of_admits ha, narrow_of_lt hp, narrow_of_lt hn]
  rfl

theorem exec_readProgramArea_of_admits {n : Nat} (ha : s.Admits) (hn : n < 256) :
    exec (.readProgramArea n) s = .next (finish (runReadProgramArea
      (place s.cfg.argMap.readProgramArea (BitVec.ofNat 8 n) 0 0) (BitVec.ofNat 8 n)
      (started (some (.readProgramArea (BitVec.ofNat 8 n))) .readProgramArea s))) := by
  rw [exec, execReadProgramArea, admitted_of_admits ha, narrow_of_lt hn]
  rfl

theorem exec_writePage_of_admits {p : Nat} (ha : s.Admits) (hp : p < 256) (hd : s.dlen.toNat = 256) :
    exec (.writePage p) s = .next (finish (runWritePage
      (place s.cfg.argMap.writeFlashPage (BitVec.ofNat 8 p) 0 0)
      (started (some (.writePage (BitVec.ofNat 8 p))) .writePage s))) := by
  rw [exec, execWritePage, admitted_of_admits ha, narrow_of_lt hp]
  exact if_neg (not_not.2 hd)

theorem exec_cmdWriteFlashPage_of_admits (ha : s.Admits) (hd : s.dlen.toNat = 256) :
    exec (.cmdWriteFlashPage a.arg0 a.arg1 a.arg2) s =
      .next (finish (runWritePage a (started s.req .writePage s))) := by
  rw [exec, execCmdWriteFlashPage, admitted_of_admits ha]
  exact if_neg (not_not.2 hd)

theorem exec_writeByte_of_admits {address value : Nat} (ha : s.Admits) (hx : address < 65536)
    (hv : value < 256) :
    exec (.writeByte address value) s = .next (finish (runWriteByte
      (place s.cfg.argMap.writeFlashByte (BitVec.ofNat 8 (address / 256))
        (BitVec.ofNat 8 (address % 256)) (BitVec.ofNat 8 value))
      (started (some (.writeByte (BitVec.ofNat 16 address) (BitVec.ofNat 8 value))) .writeByte s))) := by
  rw [exec, execWriteByte, admitted_of_admits ha, narrow_of_lt hx, narrow_of_lt hv]
  simp only [pam, Config.pageSize, BitVec.toNat_ofNat, Nat.mod_eq_of_lt hx]
  rfl

theorem exec_writeProgramArea_of_admits {n : Nat} (ha : s.Admits) (hn : n < 256) :
    exec (.writeProgramArea n) s = .next (finish (runWriteProgramArea
      (place s.cfg.argMap.writeProgramArea (BitVec.ofNat 8 n) 0 0) (BitVec.ofNat 8 n)
      (started (some (.writeProgramArea (BitVec.ofNat 8 n))) .writeProgramArea s))) := by
  rw [exec, execWriteProgramArea, admitted_of_admits ha, narrow_of_lt hn]
  rfl

theorem exec_runSelfTest_of_admits (ha : s.Admits) :
    exec .runSelfTest s = .next (finish (runSelfTestExchange ⟨0, 0, 0⟩
      (started (some .runSelfTest) .runSelfTest s))) := by
  rw [exec, execRunSelfTest, admitted_of_admits ha, argsOf, place_zero, beginOp_eq_started]

theorem exec_verifyCodeProtect_of_admits (ha : s.Admits) :
    exec .verifyCodeProtect s = .next (finish
      ((readExchange .readFlashPage (place s.cfg.argMap.readFlashPage s.cfg.configPage 1 0) 256
        (started (some .verifyCodeProtect) .verifyCodeProtect s)).bind fun _ s1 => testProtect s1)) := by
  rw [exec, execVerifyCodeProtect, admitted_of_admits ha, runReadPage, Run.bind_assoc]
  rfl

/-! ### A command and its acknowledgement (R112) -/

/-- The state in which a scripted command has been sent and its acknowledgement accepted. -/
def commandAcked (q : Option Request) (op : OpName) (ks : List Nat) (rest : List Bool)
    (more : List Chunk) (command ack : Frame) (s : State) : State :=
  { s with
    req := q, txf := some command, rxf := some ack, readyIn := rest, linkIn := more
    hist := s.hist ++ commandEvents ks command ack
    pollcnt := pollcntAfter s.pollcnt ks
    xcnt := 8
    seq := ⟨op, .valAck1, 8⟩, busy := true }

theorem transact_accepted (hs : s.Scripted [k0, k1, k2, k3] rest (frameChunks f) more)
    (hv : validate f (s.cfg.ackOf cmd) = none) :
    transact cmd a (started q op s) = .ok f (commandAcked q op [k0, k1, k2, k3] rest more
      (buildFrame (s.cfg.opcode cmd) a) f s) := by
  obtain ⟨hb, hr, hl⟩ := hs
  rw [transact_scripted cmd a k0 k1 k2 k3 (started q op s) rest f more hr hl hb,
    show (started q op s).cfg = s.cfg from rfl, hv]
  rfl

/-- The state in which a scripted command has stopped at chunk `ks.length` of its four, but for `SEQ`. -/
def commandStopped (q : Option Request) (ks : List Nat) (rest : List Bool) (cs more : List Chunk)
    (command : Frame) (s : State) : State :=
  { s with
    req := q, txf := some command, readyIn := rest, linkIn := more
    hist := s.hist ++ sentEvents (ks.take 2) (frameChunks command) ++ rcvdEvents (ks.drop 2) cs ++
      silentEvents s.maxatt
    pollcnt := s.maxatt
    xcnt := BitVec.ofNat 17 (4 * (if ks.length < 2 then ks.length else ks.length - 2))
    busy := true }

theorem transact_stopped {ks : List Nat} (hks : ks.length < 4) (hcs : cs.length = ks.length - 2)
    (hs : s.Scripted ks (silence s.maxatt ++ rest) cs more) :
    ∃ p, transact cmd a (started q op s) = .raised .timeout { commandStopped q ks rest cs more
      (buildFrame (s.cfg.opcode cmd) a) s with seq := p } := by
  obtain ⟨hb, hr, hl⟩ := hs
  exact transact_silent cmd a ks (started q op s) rest cs more hks hcs hr hl hb

theorem runReadSwVersion_scripted (hs : s.Scripted [k0, k1, k2, k3] rest (frameChunks f) more)
    (hv : validate f s.cfg.ackVersion = none) :
    finish (runReadSwVersion a (started q op s)) =
      { afterExchange s [k0, k1, k2, k3] rest more (buildFrame s.cfg.opcReadSwVersion a) f with
        req := q, result := .version f.arg0 f.arg1 f.arg2 } := by
  rw [runReadSwVersion, plainExchange, transact_accepted (cmd := .readSwVersion) hs hv]
  rfl

theorem runWriteByte_scripted (hs : s.Scripted [k0, k1, k2, k3] rest (frameChunks f) more)
    (hv : validate f s.cfg.ackOk = none) :
    finish (runWriteByte a (started q op s)) =
      { afterExchange s [k0, k1, k2, k3] rest more (buildFrame s.cfg.opcWriteFlashByte a) f with
        req := q } := by
  rw [runWriteByte, plainExchange, transact_accepted (cmd := .writeFlashByte) hs hv]
  rfl

theorem runSelfTestExchange_pass (hs : s.Scripted [k0, k1, k2, k3] rest (frameChunks f) more)
    (hv : validate f s.cfg.ackBist = none) (hz : bistByte s.cfg.bistResultOff f = 0) :
    finish (runSelfTestExchange a (started q op s)) =
      { afterExchange s [k0, k1, k2, k3] rest more (buildFrame s.cfg.opcRunBist a) f with
        req := q } := by
  rw [runSelfTestExchange, plainExchange, transact_accepted (cmd := .runBist) hs hv, Run.bind_ok,
    testBist_pass (by exact hz)]
  rfl

theorem runSelfTestExchange_fail (hs : s.Scripted [k0, k1, k2, k3] rest (frameChunks f) more)
    (hv : validate f s.cfg.ackBist = none) (hz : bistByte s.cfg.bistResultOff f ≠ 0) :
    finish (runSelfTestExchange a (started q op s)) =
      { (afterExchange s [k0, k1, k2, k3] rest more (buildFrame s.cfg.opcRunBist a) f).failed
          .selfTestFailure with req := q } := by
  rw [runSelfTestExchange, plainExchange, transact_accepted (cmd := .runBist) hs hv, Run.bind_ok,
    testBist_fail (by exact hz)]
  rfl

/-! ### Reads (R115, R119, R124) -/

/-- The state in which a scripted payload of as many chunks as `cs` has arrived. -/
def payloadRead (q : Option Request) (op : OpName) (ks ls : List Nat) (rest : List Bool)
    (more : List Chunk) (command ack : Frame) (cs : List Chunk) (s : State) : State :=
  { commandAcked q op (ks ++ ls) rest more command ack s with
    hist := s.hist ++ commandEvents ks command ack ++ rcvdEvents ls cs
    xcnt := BitVec.ofNat 17 (4 * cs.length)
    seq := ⟨op, .rxData, BitVec.ofNat 17 (4 * cs.length)⟩
    dbuf := s.dbuf.writeBytes 0 (cs.flatMap Chunk.bytes)
    dlen := BitVec.ofNat 17 (4 * cs.length), dvalid := true }

theorem readExchange_accepted {n : Nat} (hn : n < 256) (hls : ls.length = 64 * n)
    (hcs : cs.length = 64 * n)
    (hs : s.Scripted ([k0, k1, k2, k3] ++ ls) rest (frameChunks f ++ cs) more)
    (hv : validate f (s.cfg.ackOf cmd) = none) :
    readExchange cmd a (n * 256) (started q op s) = .ok () (payloadRead q op [k0, k1, k2, k3] ls rest
      more (buildFrame (s.cfg.opcode cmd) a) f cs s) := by
  rw [show n * 256 = 4 * (64 * n) by omega, readExchange_scripted cmd a (64 * n) k0 k1 k2 k3 ls
    (started q op s) rest f cs more hls hcs hs hv (by omega), ← hcs]
  rfl

/-- A read of `n` pages that returns the buffer. -/
theorem readExchange_buffer {n : Byte} (hls : ls.length = 64 * n.toNat)
    (hcs : cs.length = 64 * n.toNat)
    (hs : s.Scripted ([k0, k1, k2, k3] ++ ls) rest (frameChunks f ++ cs) more)
    (hv : validate f (s.cfg.ackOf cmd) = none) :
    finish ((readExchange cmd a (payloadLen n) (started q op s)).bind fun _ s1 => .ok .buffer s1) =
      { afterRead s [k0, k1, k2, k3] ls rest more (buildFrame (s.cfg.opcode cmd) a) f cs with
        req := q } := by
  rw [payloadLen, Config.pageSize, readExchange_accepted n.isLt hls hcs hs hv]
  rfl

/-- Byte 1 of a received page is the second of its first chunk (R45, R103). -/
theorem readDbuf_payloadRead {ks : List Nat} :
    readDbuf (payloadRead q op ks ls rest more f g (c :: cs) s) Config.cfgProtectOff = c.b1 :=
  readDbuf_of_read? _ _ _ (Memory.read?_writeBytes_inside ((c :: cs).flatMap Chunk.bytes) s.dbuf 0 1
    (by simp [Chunk.bytes]))

/-- The value test of R124 on a zero byte. -/
theorem testProtect_pass (h : readDbuf s Config.cfgProtectOff = 0) :
    testProtect s = .ok .nothing (setPhase .post s) := if_neg (not_not.2 h)

/-- The value test of R124 on any other byte. -/
theorem testProtect_fail (h : readDbuf s Config.cfgProtectOff ≠ 0) :
    testProtect s = .raised .codeProtectVerifyFailure (setPhase .post s) := if_pos h

/-! ### Writes (R116, R118) -/

/-- A write whose two acknowledgements are accepted. -/
theorem writeExchange_accepted (hls : ls.length = size / 4)
    (hs : s.Scripted ([k0, k1, k2, k3] ++ ls ++ [m0, m1]) rest (frameChunks f ++ frameChunks g) more)
    (hf : validate f (s.cfg.ackOf cmd) = none) (hg : validate g s.cfg.ackOk = none) :
    finish ((writeExchange cmd a size (started q op s)).bind fun _ s1 => .ok .nothing s1) =
      { afterWrite s [k0, k1, k2, k3] ls [m0, m1] rest more (buildFrame (s.cfg.opcode cmd) a) f g
        size with req := q } := by
  rw [writeExchange_scripted cmd a size k0 k1 k2 k3 ls m0 m1 (started q op s) rest f g more hls hs hf,
    show (started q op s).cfg = s.cfg from rfl, hg]
  rfl

/-- A write whose second acknowledgement fails validation (R113). -/
theorem writeExchange_secondBad (hls : ls.length = size / 4)
    (hs : s.Scripted ([k0, k1, k2, k3] ++ ls ++ [m0, m1]) rest (frameChunks f ++ frameChunks g) more)
    (hf : validate f (s.cfg.ackOf cmd) = none) (hg : validate g s.cfg.ackOk = some e) :
    finish ((writeExchange cmd a size (started q op s)).bind fun _ s1 => .ok .nothing s1) =
      { (afterWrite s [k0, k1, k2, k3] ls [m0, m1] rest more (buildFrame (s.cfg.opcode cmd) a) f g
        size).failed e with req := q } := by
  rw [writeExchange_scripted cmd a size k0 k1 k2 k3 ls m0 m1 (started q op s) rest f g more hls hs hf,
    show (started q op s).cfg = s.cfg from rfl, hg]
  rfl

theorem runWriteProgramArea_scripted {n : Byte} (hd : s.dlen.toNat = n.toNat * 256)
    (hls : ls.length = 64 * n.toNat)
    (hs : s.Scripted ([k0, k1, k2, k3] ++ ls ++ [m0, m1]) rest (frameChunks f ++ frameChunks g) more)
    (hf : validate f s.cfg.ackOk = none) (hg : validate g s.cfg.ackOk = none) :
    finish (runWriteProgramArea a n (started q op s)) =
      { afterWrite s [k0, k1, k2, k3] ls [m0, m1] rest more (buildFrame s.cfg.opcWriteProgramArea a) f
        g (n.toNat * 256) with req := q } := by
  rw [runWriteProgramArea, if_neg (not_not.2 (by exact hd))]
  have hsize : ls.length = payloadLen n / 4 := by rw [hls, payloadLen_eq]; omega
  exact writeExchange_accepted (cmd := .writeProgramArea) hsize hs hf hg

/-! ### Errors, whichever exchange runs -/

/-- An error of the command or of its acknowledgement is the end of the exchange; a read has lost its
payload (R112, R170). -/
theorem Exchange.of_transact_raised (h : Exchange i s cmd a t) (hd : i.DataFits s) {u : State}
    (hu : ∀ op, ∃ p, transact cmd a (started (i.latched s) op s) = .raised e { u with seq := p }) :
    t = raiseError e (lostIf i u) := by
  cases h with
  | sizeMismatch op _ hne hi => exact absurd (Instr.dlen_of_dataFits hd hi) hne
  | plain op tail _ hr =>
    obtain ⟨p, hp⟩ := hu op
    rw [lostIf, hr, hp]
    rfl
  | read op n _ hr =>
    obtain ⟨p, hp⟩ := hu op
    rw [lostIf, hr, readExchange, hp]
    rfl
  | verify op hi =>
    subst hi
    obtain ⟨p, hp⟩ := hu op
    rw [readExchange, hp]
    rfl
  | write op n _ hr =>
    obtain ⟨p, hp⟩ := hu op
    rw [lostIf, hr, writeExchange, hp]
    rfl

/-- An exchange that receives a payload is a read, whose rule then does something with it. -/
theorem Exchange.read_of_recvSize (h : Exchange i s cmd a t) (hz : 0 < i.recvSize s.cfg) :
    ∃ (op : OpName) (n : Nat) (tail : State → Run OpResult), n ≤ 16320 ∧ i.recvSize s.cfg = 4 * n ∧
      t = finish ((readExchange cmd a (4 * n) (started (i.latched s) op s)).bind
        fun _ s1 => tail s1) := by
  cases h with
  | read op n hn _ hv => exact ⟨op, n, _, hn, hv, rfl⟩
  | verify op hi => subst hi; exact ⟨op, 64, _, by decide, rfl, rfl⟩
  | plain _ _ _ hr | write _ _ _ hr | sizeMismatch _ hr => rw [Instr.recvSize_eq_zero hr] at hz; omega

/-- An exchange that sends a payload is a write, if the data is there. -/
theorem Exchange.write_of_writesPayload (h : Exchange i s cmd a t) (hd : i.DataFits s)
    (hw : i.writesPayload = true) :
    4 ∣ i.sendSize s.cfg ∧ ∃ op, t = finish ((writeExchange cmd a (i.sendSize s.cfg)
      (started (i.latched s) op s)).bind fun _ s1 => .ok .nothing s1) := by
  cases h with
  | write op n _ _ _ hs => exact ⟨⟨n, hs⟩, op, by rw [hs]⟩
  | plain _ _ _ _ hs => simp [hw] at hs
  | read _ _ _ hr => simp [Instr.writesPayload_of_reads hr] at hw
  | verify _ hi => subst hi; cases hw
  | sizeMismatch _ _ hne hi => exact absurd (Instr.dlen_of_dataFits hd hi) hne

/-- Only a write sends a payload. -/
theorem Instr.writesPayload_of_sendSize {cfg : Config} (h : 0 < i.sendSize cfg) :
    i.writesPayload = true := by
  by_contra hw
  rw [Instr.sendSize_eq_zero (Bool.eq_false_of_not_eq_true hw)] at h
  omega

/-! ### What an exchange transmits (R53, R126) -/

/-- A command is sent whole before anything of the payload. -/
theorem sent_command_prefix {ks : List Nat} {d : List Event} (hn : ks.length = 4) (h : sent d <+: cs) :
    sent (commandEvents ks f g ++ d) <+: frameChunks f ++ cs := by
  rw [sent_append, sent_commandEvents ks f g hn]
  exact (List.prefix_append_right_inj _).2 h

/-- However an exchange ends, what it sent begins its command followed by its payload. -/
theorem Outcome.sent_prefix (h : Outcome i s cmd a t)
    (hk : ∀ x < i.sendSize s.cfg, (s.dbuf.read? x).isSome) :
    ∃ d, t.hist = s.hist ++ d ∧ sent d <+: frameChunks (buildFrame (s.cfg.opcode cmd) a) ++
      chunksOf (dbufBytes s (i.sendSize s.cfg)) := by
  have hp := fun v => payload_of_known s v _ hk
  cases h with
  | sizeMismatch => exact ⟨[], (List.append_nil _).symm, List.nil_prefix⟩
  | commandTimeout _ ks =>
    refine ⟨_, by rw [lostIf_eq]; rfl, ?_⟩
    simp only [sent_append, sent_sentEvents, sent_rcvdEvents, sent_silentEvents, List.append_nil]
    exact (List.take_prefix _ _).trans (List.prefix_append _ _)
  | badAck _ ks f _ _ _ hn =>
    refine ⟨_, by rw [lostIf_eq]; rfl, ?_⟩
    rw [sent_commandEvents ks _ f hn]
    exact List.prefix_append _ _
  | plainDone _ ks f _ _ _ _ hn | selfTestFailed _ ks f _ _ _ _ hn =>
    refine ⟨_, rfl, ?_⟩
    rw [sent_commandEvents ks _ f hn]
    exact List.prefix_append _ _
  | readTimeout _ _ _ _ _ _ _ _ hn =>
    refine ⟨_, rfl, ?_⟩
    rw [List.append_assoc]
    exact sent_command_prefix hn (by simp)
  | readDone _ _ _ _ _ _ _ _ _ hn _ _ _ ht =>
    obtain ⟨_, rfl⟩ | ⟨rfl, -⟩ := ht <;> exact ⟨_, rfl, sent_command_prefix hn (by simp)⟩
  | writeTimeout _ v _ _ _ _ _ _ hn =>
    refine ⟨_, rfl, ?_⟩
    rw [hp, List.append_assoc]
    exact sent_command_prefix hn (by simp [sent_sentEvents, List.take_prefix])
  | secondTimeout _ v _ _ _ _ _ _ _ _ hn =>
    refine ⟨_, rfl, ?_⟩
    rw [hp, List.append_assoc, List.append_assoc]
    exact sent_command_prefix hn (by simp [sent_sentEvents, List.take_prefix])
  | writeEnd _ v _ _ _ _ _ _ _ _ _ hn _ _ _ _ ht =>
    obtain ⟨-, rfl⟩ | ⟨_, -, rfl⟩ := ht <;>
      refine ⟨_, rfl, ?_⟩ <;> rw [hp, List.append_assoc] <;>
      exact sent_command_prefix hn (by simp [sent_sentEvents, List.take_prefix])

/-! ### The page-address multiplexer (R111) -/

theorem flatOf_toNat (p o : Byte) : (flatOf p o).toNat = p.toNat * 256 + o.toNat := by
  have := p.isLt
  have := o.isLt
  rw [flatOf, Config.pageSize, BitVec.toNat_ofNat]
  omega

theorem pam_flat_toNat (cfg : Config) (x : BitVec 16) :
    (pam cfg (.flat x)).1.toNat = x.toNat / 256 ∧ (pam cfg (.flat x)).2.toNat = x.toNat % 256 := by
  have := x.isLt
  simp only [pam, Config.pageSize, BitVec.toNat_ofNat]
  omega

theorem flatOf_pam (cfg : Config) (x : BitVec 16) :
    flatOf (pam cfg (.flat x)).1 (pam cfg (.flat x)).2 = x := by
  obtain ⟨hp, ho⟩ := pam_flat_toNat cfg x
  apply BitVec.eq_of_toNat_eq
  rw [flatOf_toNat, hp, ho]
  omega

theorem pam_flatOf (cfg : Config) (p o : Byte) : pam cfg (.flat (flatOf p o)) = (p, o) := by
  have := o.isLt
  obtain ⟨hp, ho⟩ := pam_flat_toNat cfg (flatOf p o)
  rw [flatOf_toNat] at hp ho
  have hpage : (pam cfg (.flat (flatOf p o))).1 = p := BitVec.eq_of_toNat_eq (by omega)
  have hoff : (pam cfg (.flat (flatOf p o))).2 = o := BitVec.eq_of_toNat_eq (by omega)
  exact Prod.ext hpage hoff

end Sys2Proof.Machine

namespace Sys2Proof.Proofs

open Sys2Proof.Machine

/-- Settles O15: the operation and its command frame run one exchange, which differs only in `REQ`. -/
theorem readSwVersionResult : Obligations.ReadSwVersionResult := by
  unfold Obligations.ReadSwVersionResult
  intro s a k0 k1 k2 k3 rest ack more ha hs hv
  refine ⟨?op, ?frame⟩
  case op => rw [exec_readSwVersion_of_admits ha, runReadSwVersion_scripted hs hv]
  case frame => exact (admitted_of_admits ha _).trans (congrArg _ (runReadSwVersion_scripted hs hv))

/-- Settles O16: `readExchange_buffer`, for the operation and for a frame whose arguments carry its
page count. -/
theorem readPageResult : Obligations.ReadPageResult := by
  unfold Obligations.ReadPageResult
  intro s p n b k0 k1 k2 k3 ls rest ack cs more ha hp hn hls hcs hs hv
  refine ⟨?op, fun hb => ?frame⟩
  case op =>
    rw [← toNat_ofNat_byte hn] at hls hcs
    exact (exec_readPage_of_admits ha hp hn).trans
      (congrArg _ (readExchange_buffer (cmd := .readFlashPage) hls hcs hs hv))
  case frame =>
    rw [← hb] at hls hcs
    exact (admitted_of_admits ha _).trans
      (congrArg _ (readExchange_buffer (cmd := .readFlashPage) hls hcs hs hv))

/-- Settles O17: `readExchange_buffer`, for the operation and for a frame whose arguments carry its
page count. -/
theorem readProgramAreaResult : Obligations.ReadProgramAreaResult := by
  unfold Obligations.ReadProgramAreaResult
  intro s n b k0 k1 k2 k3 ls rest ack cs more ha hn hls hcs hs hv
  refine ⟨?op, fun hb => ?frame⟩
  case op =>
    rw [← toNat_ofNat_byte hn] at hls hcs
    exact (exec_readProgramArea_of_admits ha hn).trans
      (congrArg _ (readExchange_buffer (cmd := .readProgramArea) hls hcs hs hv))
  case frame =>
    rw [← hb] at hls hcs
    exact (admitted_of_admits ha _).trans
      (congrArg _ (readExchange_buffer (cmd := .readProgramArea) hls hcs hs hv))

/-- Settles O18: the length test passes, and both acknowledgements are accepted. -/
theorem writePageResult : Obligations.WritePageResult := by
  unfold Obligations.WritePageResult
  intro s p b k0 k1 k2 k3 ls m0 m1 rest ack ack2 more ha hp hd hls hs hv hv2
  refine ⟨?op, ?frame⟩
  case op =>
    exact (exec_writePage_of_admits ha hp hd).trans
      (congrArg _ (writeExchange_accepted (cmd := .writeFlashPage) hls hs hv hv2))
  case frame =>
    exact (exec_cmdWriteFlashPage_of_admits ha hd).trans
      (congrArg _ (writeExchange_accepted (cmd := .writeFlashPage) hls hs hv hv2))

/-- Settles O20: the flat address splits into the two bytes of the frame, and nothing follows the
acknowledgement. -/
theorem writeByteResult : Obligations.WriteByteResult := by
  unfold Obligations.WriteByteResult
  intro s address value b k0 k1 k2 k3 rest ack more ha hx hval hs hv
  refine ⟨?op, ?frame⟩
  case op => rw [exec_writeByte_of_admits ha hx hval, runWriteByte_scripted hs hv]
  case frame => exact (admitted_of_admits ha _).trans (congrArg _ (runWriteByte_scripted hs hv))

/-- Settles O21: the size test passes, and both acknowledgements are accepted. -/
theorem writeProgramAreaResult : Obligations.WriteProgramAreaResult := by
  unfold Obligations.WriteProgramAreaResult
  intro s n b k0 k1 k2 k3 ls m0 m1 rest ack ack2 more ha hn hd hls hs hv hv2
  refine ⟨?op, fun hb => ?frame⟩
  case op =>
    have hbyte := toNat_ofNat_byte hn
    rw [exec_writeProgramArea_of_admits ha hn,
      runWriteProgramArea_scripted (by rw [hbyte, hd]) (by rw [hbyte, hls]) hs hv hv2, hbyte]
  case frame =>
    subst hb
    exact (admitted_of_admits ha _).trans
      (congrArg _ (runWriteProgramArea_scripted hd hls hs hv hv2))

/-- Settles O23: the value test comes after the acknowledgement is accepted. -/
theorem runSelfTestResult : Obligations.RunSelfTestResult := by
  unfold Obligations.RunSelfTestResult
  intro s a k0 k1 k2 k3 rest ack more ha hs hv r t u
  have hr : bistByte s.cfg.bistResultOff ack = r := by
    simp only [r]
    cases s.cfg.bistResultOff <;> rfl
  rw [exec_runSelfTest_of_admits ha]
  refine ⟨fun hz => ⟨?passOp, ?passFrame⟩, fun hz => ⟨?failOp, ?failFrame⟩⟩
  case passOp => rw [runSelfTestExchange_pass hs hv (hr.trans hz)]
  case passFrame =>
    exact (admitted_of_admits ha _).trans
      (congrArg _ (runSelfTestExchange_pass hs hv (hr.trans hz)))
  case failOp => rw [runSelfTestExchange_fail hs hv (hr.trans_ne hz)]
  case failFrame =>
    exact (admitted_of_admits ha _).trans
      (congrArg _ (runSelfTestExchange_fail hs hv (hr.trans_ne hz)))

/-- Settles O24: the exchange of WriteByte with the protect byte's address and the value 0. -/
theorem setCodeProtectResult : Obligations.SetCodeProtectResult := by
  unfold Obligations.SetCodeProtectResult
  intro s k0 k1 k2 k3 rest ack more ha hs hv
  rw [exec_setCodeProtect_of_admits ha, beginOp_eq_started, runWriteByte_scripted hs hv]
  rfl

/-- Settles O25: the byte tested is the second of the page received, which stays in `DBUF`. -/
theorem verifyCodeProtectResult : Obligations.VerifyCodeProtectResult := by
  unfold Obligations.VerifyCodeProtectResult
  intro s k0 k1 k2 k3 ls rest ack c cs more ha hls hcs hs hv t
  rw [exec_verifyCodeProtect_of_admits ha, readExchange_accepted (cmd := .readFlashPage) (n := 1)
    (by decide) hls (by rw [List.length_cons, hcs]) hs hv, Run.bind_ok]
  refine ⟨fun hz => ?pass, fun hz => ?fail⟩
  case pass => rw [testProtect_pass (readDbuf_payloadRead.trans hz)]; rfl
  case fail => rw [testProtect_fail (readDbuf_payloadRead.trans_ne hz)]; rfl

/-- Settles O28: every exchange begins with `Transact`, and `transact_stopped` says where it stops. -/
theorem commandTimeoutStops : Obligations.CommandTimeoutStops := by
  unfold Obligations.CommandTimeoutStops
  intro i s cmd a ks rest cs more hx hw hd ha hks hcs hs
  obtain ⟨t, h⟩ := exec_exchange_of_admits hx hw hd ha
  rw [h, (exec_exchange_next hx h).2.of_transact_raised hd fun _ => transact_stopped hks hcs hs, lostIf]
  split <;> rfl

/-- Settles O29: an exchange whose payload is longer than what has moved is a read or a write. -/
theorem payloadTimeoutStops : Obligations.PayloadTimeoutStops := by
  unfold Obligations.PayloadTimeoutStops
  intro i s cmd a k0 k1 k2 k3 ls rest ack cs more hx hw hd ha hv t
  obtain ⟨u, h⟩ := exec_exchange_of_admits hx hw hd ha
  have hu := (exec_exchange_next hx h).2
  refine ⟨fun hn hcs hs => ?read, fun hn hs => ?write⟩
  case read =>
    obtain ⟨op, n, tail, hmax, hz, rfl⟩ := hu.read_of_recvSize (by omega)
    rw [h, readExchange_silent cmd a n k0 k1 k2 k3 ls (started (i.latched s) op s) rest ack cs more
      (by omega) hcs hs hv (by omega)]
    rfl
  case write =>
    obtain ⟨hz, op, rfl⟩ := hu.write_of_writesPayload hd
      (Instr.writesPayload_of_sendSize (Nat.zero_lt_of_lt hn))
    rw [h, writeExchange_silent cmd a _ k0 k1 k2 k3 ls (started (i.latched s) op s) rest ack more
      (by omega) hs hv]
    rfl

/-- Settles O30: an exchange that sends a payload is a write, which ends with its second
acknowledgement. -/
theorem secondAcknowledgementFailures : Obligations.SecondAcknowledgementFailures := by
  unfold Obligations.SecondAcknowledgementFailures
  intro i s cmd a k0 k1 k2 k3 ls ms rest ack ack2 cs more e hx hw hd ha hp hls hv
  obtain ⟨t, h⟩ := exec_exchange_of_admits hx hw hd ha
  obtain ⟨-, op, rfl⟩ := (exec_exchange_next hx h).2.write_of_writesPayload hd hp
  refine ⟨fun hms hv2 hs => ?bad, fun hms hcs hs => ?silent⟩
  case bad =>
    obtain ⟨m0, m1, rfl⟩ := List.length_eq_two.1 hms
    rw [h, writeExchange_secondBad (by omega) hs hv hv2]
  case silent =>
    rw [h, writeExchange_secondSilent cmd a _ k0 k1 k2 k3 ls ms (started (i.latched s) op s) rest ack
      cs more (by omega) hms hcs hs hv]
    rfl

/-- Settles O34: each end of an exchange says which chunks it sent. -/
theorem exchangeTransmitsCommandThenPayload : Obligations.ExchangeTransmitsCommandThenPayload := by
  unfold Obligations.ExchangeTransmitsCommandThenPayload
  intro i s t cmd a hx h hk
  exact (exec_exchange_outcome hx h).2.sent_prefix hk

/-- Settles O19: the length is tested before the exchange starts. -/
theorem writePageRefusesOtherLengths : Obligations.WritePageRefusesOtherLengths := by
  unfold Obligations.WritePageRefusesOtherLengths
  intro s p a0 a1 a2 ha hp hd
  refine ⟨?op, (admitted_of_admits ha _).trans (if_pos hd)⟩
  rw [exec, execWritePage, admitted_of_admits ha, narrow_of_lt hp]
  exact if_pos hd

/-- Settles O43: a flat address is 256 times its page plus its offset. -/
theorem pageAddressMultiplexer : Obligations.PageAddressMultiplexer := by
  unfold Obligations.PageAddressMultiplexer
  intro c p o n a
  obtain ⟨hp, ho⟩ := pam_flat_toNat c a
  have hn := n.isLt
  exact ⟨rfl, rfl, rfl, hp, ho, flatOf_toNat p o, flatOf_pam c a, pam_flatOf c p o, rfl,
    by rw [payloadLen_eq]; omega⟩

end Sys2Proof.Proofs
end

section
/-! PROOFS of the family 45_host_software: the byte of a merged image at one offset is the override's
value there, or else the old image's; the identity of an empty override follows offset by offset. -/

namespace Sys2Proof.Machine

/-- Beyond the old image both sides are `none`, whatever the override defines there. -/
theorem mergeImage_getElem? (old : List Byte) (override : List (Nat × Byte)) (i : Nat) :
    (mergeImage old override)[i]? = old[i]?.map fun b => (override.lookup i).getD b :=
  List.getElem?_mapIdx

/-- No offset is found in an empty override, so every byte is the old one. -/
@[simp] theorem mergeImage_nil (old : List Byte) : mergeImage old [] = old := by
  refine List.ext_getElem? fun i => ?_
  rw [mergeImage_getElem?]
  exact Option.map_id'

end Sys2Proof.Machine

namespace Sys2Proof.Proofs

open Sys2Proof.Machine

/-- Settles O60: both parts are facts about one offset of the merged image (R143). -/
theorem mergeReplacesOnOverlap : Obligations.MergeReplacesOnOverlap := by
  unfold Obligations.MergeReplacesOnOverlap
  exact ⟨mergeImage_getElem?, mergeImage_nil⟩

end Sys2Proof.Proofs
end

section
/-! PROOFS of the family 60_exceptions: a wire instruction completes or raises one of the errors that can
come from it, and which ones those are; the refusals of R172 and R175. -/

namespace Sys2Proof.Machine

variable {i : Instr} {s t : State} {cmd : Command} {a : Args} {e : EngineError}

/-! ### Where each error comes from (R163 to R168) -/

/-- The errors an instruction can end with: each with what the instruction must be to come to it. -/
inductive ErrorSource (i : Instr) : EngineError → Prop where
  /-- A gate or a WaitReady made all its polls (R165); IsReady makes one and never fails (R91). -/
  | timeout (hi : i ≠ .isReady) : ErrorSource i .timeout
  /-- A frame failed validation: an acknowledgement received, or the HOST's own (R163, R164). -/
  | frame {e : EngineError} {f : Frame} {o : Byte} (hi : i.writesRxf = true ∨ i.usesWire = false)
    (hv : validate f o = some e) : ErrorSource i e
  /-- The program bytes have the wrong length (R166). -/
  | programSize
    (hi : (∃ n, i = .writeProgramArea n) ∨ ∃ a0 a1 a2, i = .cmdWriteProgramArea a0 a1 a2) :
    ErrorSource i .programSizeMismatch
  /-- The result byte of a self test is not zero (R167). -/
  | selfTest (hi : i = .runSelfTest ∨ (∃ a0 a1 a2, i = .cmdRunBist a0 a1 a2) ∨
      ∃ a0 a1 a2, i = .ackBist a0 a1 a2) : ErrorSource i .selfTestFailure
  /-- The protect byte read back is not zero (R168). -/
  | codeProtect (hi : i = .verifyCodeProtect) : ErrorSource i .codeProtectVerifyFailure

/-- IsReady is the source of no error. -/
theorem ErrorSource.ne_isReady (h : ErrorSource i e) : i ≠ .isReady := by
  rintro rfl
  cases h with
  | timeout hi => exact hi rfl
  | frame hi => obtain hi | hi := hi <;> cases hi
  | _ hi => simp at hi

/-- WaitReady, Send and Receive receive no frame and test no value, so they only time out. -/
theorem ErrorSource.eq_timeout (h : ErrorSource i e)
    (ht : (∃ n, i = .waitReady n) ∨ i = .send ∨ ∃ n, i = .receive n) : e = .timeout := by
  cases h with
  | timeout => rfl
  | frame hi => obtain ⟨_, rfl⟩ | rfl | ⟨_, rfl⟩ := ht <;> obtain hi | hi := hi <;> cases hi
  | _ hi => obtain ⟨_, rfl⟩ | rfl | ⟨_, rfl⟩ := ht <;> simp at hi

/-- The judgement of a frame names no value test and no timeout, so each of the three value tests has
the instructions of its own rule as its only sources. -/
theorem ErrorSource.value_tests (h : ErrorSource i e) :
    (e = .programSizeMismatch →
      (∃ n, i = .writeProgramArea n) ∨ ∃ a0 a1 a2, i = .cmdWriteProgramArea a0 a1 a2) ∧
    (e = .selfTestFailure → i = .runSelfTest ∨ (∃ a0 a1 a2, i = .cmdRunBist a0 a1 a2) ∨
      ∃ a0 a1 a2, i = .ackBist a0 a1 a2) ∧
    (e = .codeProtectVerifyFailure → i = .verifyCodeProtect) := by
  cases h with
  | timeout => exact ⟨nofun, nofun, nofun⟩
  | frame _ hv => obtain rfl | rfl := validate_some_cases hv <;> exact ⟨nofun, nofun, nofun⟩
  | programSize hi => exact ⟨fun _ => hi, nofun, nofun⟩
  | selfTest hi => exact ⟨nofun, fun _ => hi, nofun⟩
  | codeProtect hi => exact ⟨nofun, nofun, fun _ => hi⟩

/-! ### How a wire instruction ends (R15, R170) -/

/-- The end of a wire instruction: it completes with `ERR` still what it was, or raises an error of which
it is a source. -/
inductive WireEnd (i : Instr) (s : State) : State → Prop where
  | completed (r : OpResult) (u : State) (hu : u.err = s.err) : WireEnd i s (complete r u)
  | raised (e : EngineError) (u : State) (he : ErrorSource i e) : WireEnd i s (raiseError e u)

/-- Either end leaves the engine idle, and from `ERR = 0` has `ERR = 1` exactly on an error. -/
theorem WireEnd.idle_and_err (h : WireEnd i s t) (hs : s.err = false) :
    t.seq = SeqPos.idle ∧ t.busy = false ∧ (t.err = true ↔ t.status ≠ .ok) := by
  cases h with
  | completed r u hu => exact ⟨rfl, rfl, by simp [complete, hu, hs]⟩
  | raised e u => exact ⟨rfl, rfl, by simp [raiseError]⟩

/-- Where a wire instruction ends with `STATUS` an error, it raised that error. -/
theorem WireEnd.errorSource (h : WireEnd i s t) (ht : t.status = .error e) : ErrorSource i e := by
  cases h with
  | completed => cases ht
  | raised _ _ he => cases ht; exact he

/-- The ends of an exchange. -/
theorem Outcome.wireEnd (hx : i.exchange? s.cfg = some (cmd, a)) (h : Outcome i s cmd a t) :
    WireEnd i s t := by
  have hgate : ErrorSource i .timeout := .timeout fun hi => by subst hi; cases hx
  have hrxf := (Instr.writes_of_exchange hx).2
  cases h with
  | sizeMismatch _ _ hi => exact .raised _ _ (.programSize hi)
  | badAck _ _ _ _ _ _ _ hv => exact .raised _ _ (.frame (.inl hrxf) hv)
  | plainDone => exact .completed _ _ rfl
  | selfTestFailed _ _ _ _ _ hi => exact .raised _ _ (.selfTest (hi.imp_right .inl))
  | readDone _ _ _ _ _ _ _ _ _ _ _ _ _ ht =>
    obtain ⟨_, rfl⟩ | ⟨rfl, hi⟩ := ht
    · exact .completed _ _ rfl
    · exact .raised _ _ (.codeProtect hi)
  | writeEnd _ _ _ _ _ _ _ _ _ _ _ _ _ _ _ _ ht =>
    obtain ⟨-, rfl⟩ | ⟨_, hv, rfl⟩ := ht
    · exact .completed _ _ rfl
    · exact .raised _ _ (.frame (.inl hrxf) hv)
  | commandTimeout | readTimeout | writeTimeout | secondTimeout => exact .raised _ _ hgate

/-- The ends of receiving an acknowledgement frame; of the three only ack-bist has a value test. -/
theorem ack_wireEnd (hq : i.latched s = s.req) (hrxf : i.writesRxf = true) {op : OpName} {o : Byte}
    {r : Args} {tail : Frame → State → Run OpResult} (ht : AckTail tail)
    (hi : tail = testBist → ∃ a0 a1 a2, i = .ackBist a0 a1 a2)
    (h : admitted s (.next (finish ((runAck op o r s).bind tail))) = .next t) : WireEnd i s t := by
  obtain ⟨-, h⟩ := admitted_next h
  cases h
  obtain ⟨_, _, -, -, ⟨_, -, -, h⟩ | ⟨_, -, ⟨_, h⟩ | ⟨_, hv, h⟩ | ⟨h, hb⟩⟩⟩ :=
    ack_outcome hq op o r tail ht <;> rw [h]
  · exact .raised _ _ (.timeout fun hi => by subst hi; cases hrxf)
  · exact .completed _ _ rfl
  · exact .raised _ _ (.frame (.inl hrxf) hv)
  · exact .raised _ _ (.selfTest (.inr (.inr (hi hb))))

/-- Every wire instruction that answers a next state ends so. -/
theorem exec_wireEnd (hw : i.usesWire = true) (h : exec i s = .next t) : WireEnd i s t := by
  cases hx : i.exchange? s.cfg with
  | some p => exact (exec_exchange_outcome hx h).2.wireEnd hx
  | none =>
    cases i with
    | ackOk => exact ack_wireEnd rfl rfl .nothing (fun hb => absurd hb testBist_ne_nothing) h
    | ackVersion => exact ack_wireEnd rfl rfl .version (fun hb => absurd hb testBist_ne_version) h
    | ackBist => exact ack_wireEnd rfl rfl .bist (fun _ => ⟨_, _, _, rfl⟩) h
    | isReady =>
      obtain ⟨-, _, _, -, rfl⟩ := exec_isReady_next h
      exact .completed _ _ rfl
    | waitReady =>
      obtain ⟨-, -, _, -, ⟨_, -, rfl⟩ | rfl⟩ := exec_waitReady_next h
      · exact .completed _ _ rfl
      · exact .raised _ _ (.timeout nofun)
    | send =>
      obtain ⟨-, -, -, _, _, -, -, ⟨-, rfl⟩ | ⟨-, rfl⟩⟩ := exec_send_next h
      · exact .completed _ _ rfl
      · exact .raised _ _ (.timeout nofun)
    | receive =>
      obtain ⟨-, -, -, _, _, _, -, -, -, ⟨-, rfl⟩ | ⟨-, rfl⟩⟩ := exec_receive_next h
      · exact .completed _ _ rfl
      · exact .raised _ _ (.timeout nofun)
    | buildCommand | validateResponse => cases hw
    | _ => cases hx

/-- A wire instruction that answers a next state was admitted (R110). -/
theorem exec_wire_admits (hw : i.usesWire = true) (h : exec i s = .next t) : s.Admits := by
  obtain ⟨k, hk⟩ := exec_eq_admitted (s := s) hw
  exact (admitted_next (hk ▸ h)).1

/-- A pure instruction with an error in `STATUS` has judged a frame: BuildCommand has "no error" (R81,
R83). -/
theorem exec_pure_errorSource (hw : i.usesWire = false) (h : exec i s = .next t)
    (ht : t.status = .error e) : ErrorSource i e := by
  cases i with
  | buildCommand =>
    obtain ⟨-, h⟩ := unlessBusy_next (by exact h)
    cases h
    cases ht
  | validateResponse f o =>
    obtain ⟨-, h⟩ := unlessBusy_next (by exact h)
    cases h
    cases hv : validate f o with
    | none => simp [hv] at ht
    | some e' =>
      obtain rfl : e' = e := by simpa [hv] using ht
      exact .frame (.inr rfl) hv
  | _ => cases hw

/-- Whatever instruction ends with an error is a source of it. -/
theorem exec_errorSource (h : exec i s = .next t) (ht : t.status = .error e) : ErrorSource i e := by
  cases hw : i.usesWire with
  | true => exact (exec_wireEnd hw h).errorSource ht
  | false => exact exec_pure_errorSource hw h ht

/-- The size test of R118 comes first: an exchange that fails it has only started. -/
theorem runWriteProgramArea_sizeMismatch {q : Option Request} {op : OpName} {n : Byte}
    (hd : s.dlen.toNat ≠ n.toNat * 256) :
    finish (runWriteProgramArea a n (started q op s)) =
      raiseError .programSizeMismatch (started q op s) := by
  rw [runWriteProgramArea, if_pos (by exact hd), finish_raised]

/-! ### Refusals (R172, R175) -/

theorem admitted_of_errorLatched (hb : s.busy = false) (he : s.err = true) (k : Answer) :
    admitted s k = .refused .errorLatched := by
  simp [admitted, admission, hb, he]

/-- A pure instruction runs whatever `ERR` is, and leaves it as it is (R80, R172). -/
theorem exec_pure_keeps_err (hw : i.usesWire = false) (hb : s.busy = false) :
    ∃ t, exec i s = .next t ∧ t.err = s.err := by
  cases i with
  | buildCommand | validateResponse => exact ⟨_, unlessBusy_of_idle hb _, rfl⟩
  | _ => cases hw

/-- An admitted instruction with an operand that does not fit is refused by its range test (R175). -/
theorem exec_of_not_wf (ha : s.Admits) (hw : i.wf = false) :
    exec i s = .refused .operandOutOfRange := by
  cases i with
  | waitReady | writePage | writeProgramArea | readProgramArea =>
    exact (admitted_of_admits ha _).trans (by rw [narrow_of_not_lt (of_decide_eq_false hw)])
  | receive size =>
    have hsize : 2 ^ 17 ≤ size := Nat.not_lt.1 (of_decide_eq_false hw)
    exact (admitted_of_admits ha _).trans (if_pos (by rw [Config.dbufCapacity]; omega))
  | readPage x y | writeByte x y =>
    refine (admitted_of_admits ha _).trans ?_
    obtain hx | hy := Bool.and_eq_false_iff.1 hw
    · rw [narrow_of_not_lt (of_decide_eq_false hx)]
    · rw [narrow_of_not_lt (of_decide_eq_false hy)]
      cases narrow _ x <;> rfl
  | _ => cases hw

end Sys2Proof.Machine

namespace Sys2Proof.Proofs

open Sys2Proof.Machine

/-- Settles O31: it was admitted with `ERR = 0`, both of its ends are R14's, and `HIST` is by the effect
of the instruction. -/
theorem wireOperationEndsIdle : Obligations.WireOperationEndsIdle := by
  unfold Obligations.WireOperationEndsIdle
  intro i s t hw h
  obtain ⟨-, herr, -⟩ := exec_wire_admits hw h
  obtain ⟨hseq, hbusy, hiff⟩ := (exec_wireEnd hw h).idle_and_err herr
  exact ⟨hseq, hbusy, herr, hiff, (exec_effect h).hist⟩

/-- Settles O37: the instruction is a source of the error it ends with, and each error has few. -/
theorem whereEachErrorComesFrom : Obligations.WhereEachErrorComesFrom := by
  unfold Obligations.WhereEachErrorComesFrom
  intro i s t e h ht
  have hsource := exec_errorSource h ht
  obtain ⟨hsize, hbist, hprotect⟩ := hsource.value_tests
  exact ⟨hsource.ne_isReady, hsize, hbist, hprotect, hsource.eq_timeout⟩

/-- Settles O22: the size test fails in the state the exchange started from, for the operation and for
a frame whose arguments carry its page count. -/
theorem programSizeMismatchBeforeAnyWireEvent :
    Obligations.ProgramSizeMismatchBeforeAnyWireEvent := by
  unfold Obligations.ProgramSizeMismatchBeforeAnyWireEvent
  intro s n b ha hn hd
  refine ⟨?op, fun hb => ?frame⟩
  case op =>
    rw [exec_writeProgramArea_of_admits ha hn,
      runWriteProgramArea_sizeMismatch (by rwa [toNat_ofNat_byte hn])]
    rfl
  case frame =>
    subst hb
    exact (admitted_of_admits ha _).trans (congrArg _ (runWriteProgramArea_sizeMismatch hd))

/-- Settles O39: a latched error fails the admission test, which the pure operations do not take. -/
theorem latchedErrorRefusesWireOperations : Obligations.LatchedErrorRefusesWireOperations := by
  unfold Obligations.LatchedErrorRefusesWireOperations
  intro i s hb he
  refine ⟨fun hw => ?wire, fun hw => ?pure⟩
  case wire =>
    obtain ⟨k, hk⟩ := exec_eq_admitted (s := s) hw
    rw [hk, admitted_of_errorLatched hb he]
  case pure =>
    obtain ⟨t, ht, hkept⟩ := exec_pure_keeps_err hw hb
    exact ⟨t, ht, hkept.trans he⟩

/-- Settles O42: each range test of an admitted operation refuses, and no other test comes before it. -/
theorem outOfRangeOperandsAreRefused : Obligations.OutOfRangeOperandsAreRefused := by
  unfold Obligations.OutOfRangeOperandsAreRefused
  intro i s ha hw
  exact exec_of_not_wf ha hw

end Sys2Proof.Proofs
end

section
/-! PROOFS of the family 70_reset_and_hazards: what an instruction may append to `HIST`, that only engine
reset clears `ERR`, and the runs of the connect and the teardown sequence. -/

namespace Sys2Proof.Machine

variable {i : Instr} {s t : State} {cmd : Command} {a : Args} {m : BitVec 16} {d : List Event} {k : Nat}

/-! ### R210's bounds on chunks and polls -/

/-- A stretch of history within R210's bounds: a command and an acknowledgement, a payload of 65280 bytes
and a second acknowledgement are 16326 chunks, and each gate polls at most `m + 1` times. -/
structure WireBounded (m : BitVec 16) (d : List Event) : Prop where
  chunks : (sent d).length + (received d).length ≤ 16326
  polls_per_gate : polls d ≤ ((sent d).length + (received d).length + 1) * (m.toNat + 1)
  polls_total : polls d ≤ 16326 * (m.toNat + 1)

/-- Every gate passed. -/
theorem Moves.wireBounded (hd : Moves m k d) (hk : k ≤ 16326) : WireBounded m d := by
  obtain ⟨rfl, hp⟩ := hd
  exact ⟨hk, hp.trans (Nat.mul_le_mul_right _ (Nat.le_succ _)), hp.trans (Nat.mul_le_mul_right _ hk)⟩

/-- The gate of one more chunk timed out. -/
theorem Moves.silent_wireBounded (hd : Moves m k d) (hk : k < 16326) :
    WireBounded m (d ++ silentEvents m) := by
  obtain ⟨rfl, hp⟩ := hd.silent
  exact ⟨hk.le, hp, hp.trans (Nat.mul_le_mul_right _ hk)⟩

/-- One poll that moves nothing, the first of its gate. -/
theorem wireBounded_poll (m : BitVec 16) (b : Bool) : WireBounded m [.poll b] :=
  ⟨Nat.zero_le _, by simp [polls, sent, received], by simp only [polls]; omega⟩

/-- The command's gates that passed, of the four of it and its acknowledgement (R112). -/
theorem Moves.command_prefix {ks : List Nat} {cs : List Chunk} (f : Frame) (hb : withinBound m ks)
    (hc : cs.length = ks.length - 2) :
    Moves m ks.length (Machine.sentEvents (ks.take 2) (frameChunks f) ++
      Machine.rcvdEvents (ks.drop 2) cs) := by
  have hlen : (ks.take 2).length + (ks.drop 2).length = ks.length := by
    rw [← List.length_append, List.take_append_drop]
  have hsent := Moves.sentEvents (cs := frameChunks f) (withinBound_take 2 hb) (List.length_take_le 2 ks)
  have hrcvd := Moves.rcvdEvents (cs := cs) (withinBound_drop 2 hb) (by rw [List.length_drop, hc])
  exact hlen ▸ hsent.append hrcvd

/-- The chunks of a payload that were sent. -/
theorem Moves.payload {ls : List Nat} {v n : Nat} (hb : withinBound m ls) (hl : 4 * ls.length ≤ n) :
    Moves m ls.length (Machine.sentEvents ls (chunksOf (Machine.payload s v n))) :=
  .sentEvents hb (by rw [chunksOf_length, payload_length]; omega)

theorem lostIf_hist (i : Instr) (s : State) : (lostIf i s).hist = s.hist := by rw [lostIf_eq]

/-- An exchange, however it ends, stays within the bounds. -/
theorem Outcome.wireBounded (h : Outcome i s cmd a t) :
    ∃ d, t.hist = s.hist ++ d ∧ WireBounded s.maxatt d := by
  cases h with
  | sizeMismatch =>
    exact ⟨[], (List.append_nil _).symm, (Moves.nil _).wireBounded (Nat.zero_le _)⟩
  | commandTimeout w ks cs _ hb hn hc =>
    exact ⟨_, lostIf_hist i _, (Moves.command_prefix _ hb hc).silent_wireBounded (by omega)⟩
  | badAck w ks f e _ hb hn =>
    exact ⟨_, lostIf_hist i _, (Moves.commandEvents hb hn).wireBounded (by decide)⟩
  | plainDone w ks f r _ _ hb hn =>
    exact ⟨_, rfl, (Moves.commandEvents hb hn).wireBounded (by decide)⟩
  | selfTestFailed w ks f _ _ _ hb hn =>
    exact ⟨_, rfl, (Moves.commandEvents hb hn).wireBounded (by decide)⟩
  | readTimeout w ks ls f cs _ _ hb hn hl hc =>
    obtain ⟨hks, hls⟩ := withinBound_append.1 hb
    exact ⟨_, rfl,
      ((Moves.commandEvents hks hn).append (.rcvdEvents hls hc.ge)).silent_wireBounded (by omega)⟩
  | readDone w ks ls f cs _ _ _ hb hn hl hc _ ht =>
    obtain ⟨hks, hls⟩ := withinBound_append.1 hb
    have hmoves := (Moves.commandEvents (c := buildFrame (s.cfg.opcode cmd) a) (f := f) hks hn).append
      (.rcvdEvents hls hc.ge)
    obtain ⟨_, rfl⟩ | ⟨rfl, -⟩ := ht <;> exact ⟨_, rfl, hmoves.wireBounded (by omega)⟩
  | writeTimeout w v ks ls f _ _ hb hn hl hs =>
    obtain ⟨hks, hls⟩ := withinBound_append.1 hb
    exact ⟨_, rfl,
      ((Moves.commandEvents hks hn).append (.payload hls hl.le)).silent_wireBounded (by omega)⟩
  | secondTimeout w v ks ls ms f cs _ _ hb hn hl hs hm hc =>
    obtain ⟨hkl, hms⟩ := withinBound_append.1 hb
    obtain ⟨hks, hls⟩ := withinBound_append.1 hkl
    exact ⟨_, rfl, (((Moves.commandEvents hks hn).append (.payload hls hl.le)).append
      (.rcvdEvents hms hc.ge)).silent_wireBounded (by omega)⟩
  | writeEnd w v ks ls ms f g _ _ _ hb hn hl hs hm _ ht =>
    obtain ⟨hkl, hms⟩ := withinBound_append.1 hb
    obtain ⟨hks, hls⟩ := withinBound_append.1 hkl
    have hmoves := ((Moves.commandEvents (c := buildFrame (s.cfg.opcode cmd) a) (f := f) hks hn).append
      (.payload (s := s) (v := v) hls hl.le)).append (.rcvdEvents (cs := frameChunks g) hms hm.le)
    obtain ⟨-, rfl⟩ | ⟨_, -, rfl⟩ := ht <;> exact ⟨_, rfl, hmoves.wireBounded (by omega)⟩

/-- So does the reception of an acknowledgement frame. -/
theorem ack_wireBounded (hq : i.latched s = s.req) {op : OpName} {o : Byte} {r : Args}
    {tail : Frame → State → Run OpResult} (ht : AckTail tail)
    (h : admitted s (.next (finish ((runAck op o r s).bind tail))) = .next t) :
    ∃ d, t.hist = s.hist ++ d ∧ WireBounded s.maxatt d := by
  obtain ⟨-, h⟩ := admitted_next h
  cases h
  obtain ⟨_, ks, -, hb, ⟨cs, hn, hc, h⟩ | ⟨f, hn, h⟩⟩ := ack_outcome hq op o r tail ht
  · rw [h]
    exact ⟨_, rfl, (Moves.rcvdEvents hb hc.ge).silent_wireBounded (by omega)⟩
  · have hmoves := Moves.rcvdEvents (cs := frameChunks f) hb hn.le
    obtain ⟨_, h⟩ | ⟨_, -, h⟩ | ⟨h, -⟩ := h <;> rw [h] <;>
      exact ⟨_, rfl, hmoves.wireBounded (by omega)⟩

/-- A Send moves at most `DLEN` bytes. -/
theorem send_wireBounded (h : exec .send s = .next t) :
    ∃ d, t.hist = s.hist ++ d ∧ WireBounded s.maxatt d := by
  obtain ⟨-, hmax, -, _, ks, -, hb, ht⟩ := exec_send_next h
  have hchunks := chunksOf_dbufBytes_length s s.dlen.toNat
  obtain ⟨hn, rfl⟩ | ⟨hn, rfl⟩ := ht
  · exact ⟨_, rfl, (Moves.sentEvents hb (by omega)).wireBounded (by omega)⟩
  · exact ⟨_, rfl, (Moves.sentEvents hb (by omega)).silent_wireBounded (by omega)⟩

/-- A Receive moves at most its size. -/
theorem receive_wireBounded {size : Nat} (h : exec (.receive size) s = .next t) :
    ∃ d, t.hist = s.hist ++ d ∧ WireBounded s.maxatt d := by
  obtain ⟨-, hmax, -, _, ks, cs, -, hb, hc, ⟨hn, rfl⟩ | ⟨hn, rfl⟩⟩ := exec_receive_next h
  · exact ⟨_, rfl, (Moves.rcvdEvents hb hc.ge).wireBounded (by omega)⟩
  · exact ⟨_, rfl, (Moves.rcvdEvents hb hc.ge).silent_wireBounded (by omega)⟩

/-- Every instruction but WaitReady, whose bound is its own, stays within R210's bounds. -/
theorem exec_wireBounded (hi : ∀ n, i ≠ .waitReady n) (h : exec i s = .next t) :
    ∃ d, t.hist = s.hist ++ d ∧ WireBounded s.maxatt d := by
  cases hx : i.exchange? s.cfg with
  | some p => exact (exec_exchange_outcome hx h).2.wireBounded
  | none =>
    cases i with
    | ackOk r0 r1 r2 => exact ack_wireBounded (i := .ackOk r0 r1 r2) rfl .nothing h
    | ackVersion r0 r1 r2 => exact ack_wireBounded (i := .ackVersion r0 r1 r2) rfl .version h
    | ackBist r0 r1 r2 => exact ack_wireBounded (i := .ackBist r0 r1 r2) rfl .bist h
    | buildCommand | validateResponse =>
      rw [exec_pure_frame rfl h]
      exact ⟨[], (List.append_nil _).symm, (Moves.nil _).wireBounded (Nat.zero_le _)⟩
    | isReady =>
      obtain ⟨-, _, b, -, rfl⟩ := exec_isReady_next h
      exact ⟨_, rfl, wireBounded_poll _ b⟩
    | waitReady n => exact absurd rfl (hi n)
    | send => exact send_wireBounded h
    | receive => exact receive_wireBounded h
    | _ => cases hx

/-- A WaitReady moves nothing, and polls at most as often as its bound says (R93). -/
theorem exec_waitReady_events {n : Nat} (h : exec (.waitReady n) s = .next t) :
    ∃ d, t.hist = s.hist ++ d ∧ sent d = [] ∧ received d = [] ∧ polls d ≤ n := by
  obtain ⟨-, -, _, -, ⟨j, hj, rfl⟩ | rfl⟩ := exec_waitReady_next h
  · exact ⟨_, rfl, by simp, by simp, by simpa using hj⟩
  · exact ⟨_, rfl, by simp, by simp, by simp⟩

/-! ### `ERR` is cleared by engine reset alone (R16, R190) -/

/-- An instruction that runs leaves `BUSY = 0`, and `ERR = 1` as it was: a wire instruction is not
admitted then, and a pure one writes neither flag (R80, R172). -/
theorem exec_flags (h : exec i s = .next t) : t.busy = false ∧ (s.err = true → t.err = true) := by
  cases hw : i.usesWire with
  | true =>
    obtain ⟨-, herr, -⟩ := exec_wire_admits hw h
    obtain ⟨-, hbusy, -⟩ := (exec_wireEnd hw h).idle_and_err herr
    exact ⟨hbusy, fun he => by simp [herr] at he⟩
  | false =>
    obtain ⟨k, hk⟩ := exec_eq_unlessBusy (s := s) hw
    obtain ⟨hbusy, -⟩ := unlessBusy_next (hk ▸ h)
    rw [exec_pure_frame hw h]
    exact ⟨hbusy, id⟩

/-- A HOST action that is no engine reset leaves `ERR = 1`. -/
theorem hostStep_keeps_err {act : HostAct} (hact : act ≠ .engineReset) (he : s.err = true)
    (h : hostStep act s = .next t) : t.err = true := by
  obtain ⟨_, i, s1, u, -, -, hs1, hu, ht⟩ | ⟨rfl, -⟩ | ⟨_, _, -, -, rfl⟩ | ⟨_, -, -, rfl⟩ | ⟨-, ht⟩ :=
    hostStep_next h
  · have he1 : s1.err = true := by obtain rfl | ⟨_, -, rfl⟩ := hs1 <;> exact he
    rw [ht]
    exact (exec_flags hu).2 he1
  · exact absurd rfl hact
  · exact he
  · exact he
  · rw [ht]
    exact he

/-! ### The pin sequences (R196, R197) -/

variable {rest : List HostAct} {check : List Byte}

/-- The state with the HOST's two pins and `OPEN` set so, and these actions left to do. -/
def State.atEdge (pmode resetLine isOpen : Bool) (hostQ : List HostAct) (s : State) : State :=
  { s with pmode := pmode, resetLine := resetLine, isOpen := isOpen, hostQ := hostQ }

theorem State.eq_atEdge (h : s.hostQ = rest) : s = s.atEdge s.pmode s.resetLine s.isOpen rest := by
  subst h; rfl

/-- A run does the HOST's next action, then goes on from there. -/
theorem run_hostStep {act : HostAct} (hq : s.hostQ = act :: rest)
    (h : hostStep act { s with hostQ := rest } = .next t) :
    Sys2Proof.core.run (k + 1) s = Sys2Proof.core.run k t :=
  run_succ Sys2Proof.core ((step_eq_hostStep hq).trans h)

/-- A run of one step is the HOST's next action. -/
theorem run_one_hostStep {act : HostAct} (hq : s.hostQ = act :: rest) :
    Sys2Proof.core.run 1 s = hostStep act { s with hostQ := rest } :=
  (run_one Sys2Proof.core s).trans (step_eq_hostStep hq)

theorem run_start {request : List Byte} (hi : decode s.cfg request = .ok i)
    (hq : s.hostQ = .start request :: rest) :
    Sys2Proof.core.run 1 s = exec i { s with hostQ := rest } :=
  (run_one_hostStep hq).trans (runRequest_of_decode (s := { s with hostQ := rest }) hi)

theorem run_setPmode (p r o b : Bool) :
    Sys2Proof.core.run (k + 1) (s.atEdge p r o (.setPmode b :: rest)) =
      Sys2Proof.core.run k (s.atEdge b r o rest) := run_hostStep rfl rfl

theorem run_setResetLine (p r o b : Bool) :
    Sys2Proof.core.run (k + 1) (s.atEdge p r o (.setResetLine b :: rest)) =
      Sys2Proof.core.run k (s.atEdge p b o rest) := run_hostStep rfl rfl

theorem run_setOpen (hb : s.busy = false) (p r o b : Bool) :
    Sys2Proof.core.run (k + 1) (s.atEdge p r o (.setOpen b :: rest)) =
      Sys2Proof.core.run k (s.atEdge p r b rest) :=
  run_hostStep rfl (unlessBusy_of_idle (s := s.atEdge p r o rest) hb _)

/-- A pulse leaves the reset line low (R198). -/
theorem run_resetPulse (p r o : Bool) :
    Sys2Proof.core.run (k + 2) (s.atEdge p r o (resetPulse ++ rest)) =
      Sys2Proof.core.run k (s.atEdge p false o rest) :=
  (run_setResetLine p r o true).trans (run_setResetLine p true o false)

/-- Teardown (R197): only `OPEN` has a test, and an idle engine passes it. -/
theorem run_teardown (hb : s.busy = false) (hq : s.hostQ = teardownSequence ++ rest) :
    Sys2Proof.core.run (k + 5) s = Sys2Proof.core.run k (s.atEdge false false false rest) := by
  rw [State.eq_atEdge hq]
  exact (run_setPmode _ _ _ false).trans <| (run_setResetLine _ _ _ false).trans <|
    (run_setOpen hb _ _ _ false).trans (run_resetPulse _ _ _)

/-- The connect sequence comes to its readiness check with PMODE asserted, the reset pulse over and the
transport open (R196). -/
theorem run_connectPins (hb : s.busy = false) (hq : s.hostQ = connectSequence check ++ rest) :
    Sys2Proof.core.run (k + 4) s =
      Sys2Proof.core.run k (s.atEdge true false true (.confirmReady check :: rest)) := by
  rw [State.eq_atEdge hq]
  exact (run_setPmode _ _ _ true).trans <| (run_resetPulse _ _ _).trans (run_setOpen hb _ _ _ true)

/-- The readiness check runs as any other request (R196 step 4). -/
theorem hostStep_confirmReady (hi : decode s.cfg check = .ok i) :
    hostStep (.confirmReady check) s =
      andThen (exec i s) fun t => .next (afterReadinessCheck t) := by
  rw [hostStep, confirmReady, runRequest_of_decode hi]

/-- The connect sequence through a readiness check that ends, in `t`. -/
theorem run_connect (hb : s.busy = false) (hq : s.hostQ = connectSequence check ++ rest)
    (hi : decode s.cfg check = .ok i) (ht : exec i (s.atEdge true false true rest) = .next t) :
    Sys2Proof.core.run (k + 5) s = Sys2Proof.core.run k (afterReadinessCheck t) := by
  rw [run_connectPins (k := k + 1) hb hq]
  exact run_hostStep rfl
    ((hostStep_confirmReady (s := s.atEdge true false true rest) hi).trans (congrArg (andThen · _) ht))

/-- A readiness check that passed is followed by PMODE and ReadSwVersion (R196 steps 5 and 6). -/
theorem run_connect_passed (hb : s.busy = false) (hq : s.hostQ = connectSequence check ++ rest)
    (hi : decode s.cfg check = .ok i) (ht : exec i (s.atEdge true false true rest) = .next t)
    (hok : t.status = .ok) (hready : t.result ≠ .ready false) :
    Sys2Proof.core.run 7 s =
      exec .readSwVersion { t with pmode := false, hostError := none, hostQ := rest } := by
  have hrest : t.hostQ = rest := exec_keeps_hostQ ht
  rw [run_connect (k := 2) hb hq hi ht, afterReadinessCheck_passed hok hready, hrest]
  have hstart := run_start (i := .readSwVersion) (request := [6]) (rest := rest)
    (s := { t with pmode := false, hostError := none, hostQ := .start [6] :: rest }) rfl rfl
  exact (run_hostStep rfl rfl).trans hstart

/-- A readiness check that failed is reported, and all that is left to do is teardown (R196, R154). -/
theorem run_connect_failed (hb : s.busy = false) (hq : s.hostQ = connectSequence check ++ rest)
    (hi : decode s.cfg check = .ok i) (ht : exec i (s.atEdge true false true rest) = .next t)
    (hfail : t.status ≠ .ok ∨ t.result = .ready false) :
    Sys2Proof.core.run (k + 5) s = Sys2Proof.core.run k { t with
      hostError := some .moduleNotDetected, hostQ := teardownSequence } := by
  rw [run_connect hb hq hi ht, afterReadinessCheck_failed hfail]

/-- A readiness check that is refused stops the machine (R175). -/
theorem run_connect_refused (hb : s.busy = false) (hq : s.hostQ = connectSequence check ++ rest)
    (hi : decode s.cfg check = .ok i) {r : Refusal}
    (hr : exec i (s.atEdge true false true rest) = .refused r) :
    Sys2Proof.core.run 5 s = .refused r := by
  rw [run_connectPins (k := 1) hb hq]
  exact (run_one_hostStep rfl).trans
    ((hostStep_confirmReady (s := s.atEdge true false true rest) hi).trans (congrArg (andThen · _) hr))

end Sys2Proof.Machine

namespace Sys2Proof.Proofs

open Sys2Proof.Machine

/-- Settles O38: the ends of an exchange, and of the other wire instructions, are stretches of gated
chunks with at most one gate that timed out after them. -/
theorem wireEventsAreBounded : Obligations.WireEventsAreBounded := by
  unfold Obligations.WireEventsAreBounded
  intro i s
  refine ⟨fun ha hw hl => exec_of_admits hw hl ha, fun t h => ?_⟩
  by_cases hi : ∃ n, i = .waitReady n
  · obtain ⟨n, rfl⟩ := hi
    obtain ⟨d, hd, hsent, hreceived, hpolls⟩ := exec_waitReady_events h
    refine ⟨d, hd, by simp [hsent, hreceived], fun hne => absurd rfl (hne n), fun j hj => ?_⟩
    cases hj
    exact hpolls
  · have hne : ∀ n, i ≠ .waitReady n := not_exists.1 hi
    obtain ⟨d, hd, hbounds⟩ := exec_wireBounded hne h
    exact ⟨d, hd, hbounds.chunks, fun _ => ⟨hbounds.polls_per_gate, hbounds.polls_total⟩,
      fun n hn => absurd hn (hne n)⟩

/-- Settles O53: while `ERR = 1` an instruction leaves it so, and no other action but engine reset
writes it. -/
theorem onlyEngineResetClearsErr : Obligations.OnlyEngineResetClearsErr := by
  unfold Obligations.OnlyEngineResetClearsErr
  intro s t he hne h
  obtain ⟨-, rfl⟩ | ⟨act, rest, hq, h⟩ := step_next h
  · exact he
  · exact hostStep_keeps_err (fun hact => hne (by rw [hq, hact]; rfl)) (by exact he) h

/-- Settles O57: the two sequences run one action after another, and the readiness check, which leaves
the engine idle and the HOST's queue alone, decides what comes after it. -/
theorem connectAndTeardownSequences : Obligations.ConnectAndTeardownSequences := by
  unfold Obligations.ConnectAndTeardownSequences
  intro s check rest hb
  refine ⟨run_teardown (k := 0) hb, fun hq => ⟨run_connectPins (k := 0) hb hq, fun i hi =>
    ⟨fun t ht => ⟨run_connect_passed hb hq hi ht, fun hfail => ⟨?reported, ?tornDown⟩⟩,
      fun r => run_connect_refused hb hq hi⟩⟩⟩
  case reported => exact run_connect_failed (k := 0) hb hq hi ht hfail
  case tornDown =>
    rw [run_connect_failed (k := 5) hb hq hi ht hfail]
    exact run_teardown (k := 0) (exec_flags ht).1 rfl

end Sys2Proof.Proofs
end
